-- ==== Sys2Proof/Word.lean ====
section
/-! DEFINITION. The words of the block: bytes, 16-bit fields, bus addresses and nine-byte responses (spec/00_scope.md
R9, R10). -/

namespace Sys2Proof

/-- A byte, the only unit of transfer (R41). -/
abbrev Byte := BitVec 8

/-- A 16-bit unsigned quantity: a command code or a raw measurement field (R9, R79). -/
abbrev Word := BitVec 16

/-- A bus address of `ADDR_WIDTH = 7` bits, `0 .. 127` (R9, R22). -/
abbrev BusAddr := BitVec 7

/-- Nine bytes in bus order, `b0` the first on the bus (R12): the longest response, `RB_SIZE = 9` (R9). -/
structure Bytes9 where
  b0 : Byte
  b1 : Byte
  b2 : Byte
  b3 : Byte
  b4 : Byte
  b5 : Byte
  b6 : Byte
  b7 : Byte
  b8 : Byte
  deriving DecidableEq, Repr, Inhabited

/-- The nine bytes in bus order. -/
def Bytes9.toList (v : Bytes9) : List Byte :=
  [v.b0, v.b1, v.b2, v.b3, v.b4, v.b5, v.b6, v.b7, v.b8]

end Sys2Proof
end

