-- ==== Sys2Proof/Config.lean ====
section
/-! DEFINITION. What the spec leaves OPEN (spec/00_scope.md R9; spec/60_exceptions.md R182; spec/92_eei_decisions.md D3, D7, D10,
D23), each a constant without a body: no proof can see its value, so a claim holds for every value. With them, the types they
fix: the collaborator's transport error and its answers (spec/20_memory.md R44 to R47). -/

namespace Sys2Proof

/-- `BUS_ADDRESS`, loaded into `ADDR` at construction (R9, R22, D3). OPEN. -/
opaque Config.busAddress : BusAddr

/-- `GC_ADDRESS`, the "reserved broadcast address" of the general-call reset (R9, R166, D10). OPEN. -/
opaque Config.gcAddress : BusAddr

/-- `GC_RESET_BYTE`, the "fixed reset byte" of the general-call reset (R9, R74, D10). OPEN. -/
opaque Config.gcResetByte : Byte

/-- The number of bits in which the bus collaborator writes its transport errors, which makes the type of `e` a parameter of the
model (R182, D7, U8). OPEN. -/
opaque Config.transportErrWidth : Nat

/-- The collaborator's transport error `e`, opaque to the block (R182): what the collaborator gave, in a type the model knows
nothing of but that its values are bits. No rule inspects it. DESIGN CHOICE, safe: bits of an open number
(notes/assumptions/4.md). -/
structure TransportErr where
  payload : BitVec Config.transportErrWidth
  deriving DecidableEq, Repr, Inhabited

/-- What the oracle answers to one transaction (R47): a failure, or success. Success carries nine bytes of which a read of
`n` bytes receives exactly the first `n` (R46) and a write none. DESIGN CHOICE, safe (notes/assumptions/3.md). -/
inductive Answer where
  | success (lanes : Bytes9)
  | fail (e : TransportErr)
  deriving DecidableEq, Repr, Inhabited

/-- The unconstrained oracle's answer to the transaction of the given number, when no answer has been laid out for it
(R47, D23). A free value (notes/assumptions/2.md). -/
opaque Config.freeAnswer : Nat → Answer

end Sys2Proof
end

