-- ==== Sys2Proof/Syntax.lean ====
section
/-! DEFINITION. The operation set (spec/30_encoding.md R70), the formats (R71), the shape of the table that holds each
operation's properties as data (R75, spec/41_framer.md R126), and the requests a caller can make (R70, R114). -/

namespace Sys2Proof

/-- The eleven operations of R70, in the order of the table. No operation takes an operand (R79). -/
inductive Instr where
  /-- `MEAS.CS`, "single-shot read (clock-stretching enabled)" (R156). -/
  | measCs
  /-- `MEAS.NCS`, "single-shot read (clock-stretching disabled)" (R157). -/
  | measNcs
  /-- `PER.FETCH`, "periodic-measurement fetch" (R158). -/
  | perFetch
  /-- `PER.START`, "start periodic measurement" (R159). -/
  | perStart
  /-- `PER.END`, "end periodic measurement" (R160). -/
  | perEnd
  /-- `ID.READ`, "read identification" (R161). -/
  | idRead
  /-- `REG1.READ`, "read register (status 1)" (R162). -/
  | reg1Read
  /-- `REG2.READ`, "read register (status 2)" (R163). -/
  | reg2Read
  /-- `REG1.CLR`, "clear status register 1" (R164). -/
  | reg1Clr
  /-- `SRESET`, "soft reset" (R165). -/
  | sReset
  /-- `GCRESET`, the bus-wide general-call reset (R166). -/
  | gcReset
  deriving DecidableEq, Repr

/-- The operations in the order of the table (R70). -/
def Instr.all : List Instr :=
  [.measCs, .measNcs, .perFetch, .perStart, .perEnd, .idRead, .reg1Read, .reg2Read, .reg1Clr, .sReset, .gcReset]

/-- The two outgoing formats (R71): `CMD2`, two bytes, and `GC1`, one byte. -/
inductive OutFormat where
  | cmd2
  | gc1
  deriving DecidableEq, Repr

/-- The three incoming formats (R71): `M6`, `ID9`, `ST3`. -/
inductive InFormat where
  | m6
  | id9
  | st3
  deriving DecidableEq, Repr

/-- `W`: a write only; `WR`: a write immediately followed by a read (R50, R75). -/
inductive TxKind where
  | w
  | wr
  deriving DecidableEq, Repr

/-- A protected triple `(s, e, k)`: the CRC-8 of `RB[s:e]` must equal `RB[k]` (R75). -/
structure Triple where
  s : Nat
  e : Nat
  k : Nat
  deriving DecidableEq, Repr

/-- What an operation returns on `OK`, and so which decoder reads its response (the last column of R75; R153). -/
inductive ResultForm where
  /-- "none": a write-only operation decodes nothing. -/
  | nothing
  /-- `t_raw`, `rh_raw`: `decode_meas` (R137). -/
  | measurement
  /-- `id`, all nine bytes: `decode_id` (R138). -/
  | identification
  /-- `reg = RB[0]`: `decode_reg1` (R139). -/
  | register1
  /-- `reg = RB[1]`: `decode_reg2` (R139). -/
  | register2
  deriving DecidableEq, Repr

/-- One row of the operation table, column by column (R75). `code` is absent for the general call, which has no command code.
Operations differ in their rows and in nothing else (R126). -/
structure OpRow where
  selector  : BitVec 4
  mnemonic  : String
  outFormat : OutFormat
  code      : Option Word
  kind      : TxKind
  rdLen     : Nat
  inFormat  : Option InFormat
  triples   : List Triple
  result    : ResultForm
  deriving DecidableEq, Repr

/-- The whole request to the bus collaborator (R121): kind, address, outgoing bytes, number of bytes to read. -/
structure BusReq where
  kind : TxKind
  addr : BusAddr
  out  : List Byte
  n    : Nat
  deriving DecidableEq, Repr

/-- What a caller can ask: an operation by its 4-bit selector through the caller port (R70), or a checksum through the CRC
port (R114). The range ends are integers, so that a negative index is a request that can be made and refused (R102). -/
inductive Request where
  | op (sel : BitVec 4)
  | crc (buffer : List Byte) (start stop : Int)
  deriving DecidableEq, Repr

/-- Why bytes or a selector name no operation (R82, R83). -/
inductive DecodeError where
  /-- A selector in `11 .. 15` (R82). -/
  | unknownSelector (sel : BitVec 4)
  /-- A 16-bit code outside the nine of R72 (R83). -/
  | unknownCode (code : Word)
  /-- A one-byte frame that is not `GC_RESET_BYTE` (R74). -/
  | notTheResetByte (b : Byte)
  /-- A frame of neither one nor two bytes (R84). -/
  | badLength (n : Nat)
  deriving DecidableEq, Repr

end Sys2Proof
end

