-- ==== Sys2Proof/WellFormed.lean ====
section
/-! DEFINITION. What a legal selector, table row, protected triple, outgoing frame and checksum range are
(spec/30_encoding.md R70, R75, R84; spec/20_memory.md R48, R49). Each check is a Bool. -/

namespace Sys2Proof

/-- Every operation is well formed: it takes no operand from the caller (R79). -/
def Instr.wellFormed : Instr → Bool
  | .measCs => true
  | .measNcs => true
  | .perFetch => true
  | .perStart => true
  | .perEnd => true
  | .idRead => true
  | .reg1Read => true
  | .reg2Read => true
  | .reg1Clr => true
  | .sReset => true
  | .gcReset => true

/-- A selector names an operation when it is in `0 .. 10` (R70, R82). -/
def selectorOk (sel : BitVec 4) : Bool := sel.toNat ≤ 10

/-- `0 <= s < e = k < RLEN` (R49). -/
def Triple.ok (rdLen : Nat) (t : Triple) : Bool :=
  t.s < t.e && t.e == t.k && t.k < rdLen

/-- The length of each incoming format (R71). -/
def InFormat.length : InFormat → Nat
  | .m6 => 6
  | .id9 => 9
  | .st3 => 3

/-- The length of each outgoing format (R71). -/
def OutFormat.length : OutFormat → Nat
  | .cmd2 => 2
  | .gc1 => 1

/-- What a response of each format can be returned as (R76, R77, R78). -/
def InFormat.holds : InFormat → ResultForm → Bool
  | .m6, .measurement => true
  | .id9, .identification => true
  | .st3, .register1 => true
  | .st3, .register2 => true
  | _, _ => false

/-- A row is consistent: the selector names an operation; `CMD2` has a code and `GC1` has none (R71, R75); a write-only row
reads nothing, has no triple and returns nothing (R154); a reading row reads its format's length (R71), protects ranges inside
it (R49) and returns what its format holds (R76 to R78). -/
def OpRow.ok (r : OpRow) : Bool :=
  selectorOk r.selector
    && (match r.outFormat, r.code with
        | .cmd2, some _ => true
        | .gc1, none => true
        | .cmd2, none => false
        | .gc1, some _ => false)
    && (match r.kind, r.inFormat with
        | .w, none => r.rdLen == 0 && r.triples.isEmpty && r.result == .nothing
        | .wr, some f =>
          r.rdLen == f.length && !r.triples.isEmpty && r.triples.all (Triple.ok r.rdLen) && f.holds r.result
        | .w, some _ => false
        | .wr, none => false)

/-- An outgoing frame has the length its format fixes (R84). -/
def outLengthOk (f : OutFormat) (out : List Byte) : Bool := out.length == f.length

/-- The contract of `compute`: `0 <= start <= end <= length(buffer)` (R48, R100). -/
def rangeOk (len : Nat) (start stop : Int) : Bool :=
  decide (0 ≤ start) && decide (start ≤ stop) && decide (stop ≤ (len : Int))

end Sys2Proof
end

