-- ==== Sys2Proof/Decode.lean ====
section
/-! DEFINITION. The operation table (spec/30_encoding.md R70, R72, R75), the decoders from a selector (R70, R82), from the
bytes of a frame and from bus traffic (R81, R83), and, after them, the encoder (R73, R74; spec/41_framer.md R120). -/

namespace Sys2Proof

/-! ## The operation table, the one source of truth (R75, R126) -/

/-- The two protected triples of a measurement frame, "[0,2) vs byte 2; [3,5) vs byte 5" (R75, R76). -/
def measTriples : List Triple := [⟨0, 2, 2⟩, ⟨3, 5, 5⟩]

/-- The one protected triple of an identification frame, "[0,8) vs byte 8" (R75, R77). -/
def idTriples : List Triple := [⟨0, 8, 8⟩]

/-- The one protected triple of a status frame, "[0,2) vs byte 2" (R75, R78). -/
def statusTriples : List Triple := [⟨0, 2, 2⟩]

/-- A row of a measurement operation (R75). -/
def measRow (sel : BitVec 4) (name : String) (code : Word) : OpRow :=
  { selector := sel, mnemonic := name, outFormat := .cmd2, code := some code, kind := .wr, rdLen := 6, inFormat := some .m6,
    triples := measTriples, result := .measurement }

/-- A row of a status-register read (R75). Both reads have the one code `F32D` (R72, R163). -/
def statusRow (sel : BitVec 4) (name : String) (result : ResultForm) : OpRow :=
  { selector := sel, mnemonic := name, outFormat := .cmd2, code := some 0xF32D, kind := .wr, rdLen := 3, inFormat := some .st3,
    triples := statusTriples, result := result }

/-- A row of a write-only command (R75). -/
def writeRow (sel : BitVec 4) (name : String) (code : Word) : OpRow :=
  { selector := sel, mnemonic := name, outFormat := .cmd2, code := some code, kind := .w, rdLen := 0, inFormat := none,
    triples := [], result := .nothing }

/-- The table of R75, with the selectors and mnemonics of R70 and the command codes of R72 transcribed exactly. It is the one
place where a code stands: the decoders and the encoder read it here (R126, D24). -/
def opRow : Instr → OpRow
  | .measCs => measRow 0 "MEAS.CS" 0x2C1B
  | .measNcs => measRow 1 "MEAS.NCS" 0x241D
  | .perFetch => measRow 2 "PER.FETCH" 0xE000
  | .perStart => writeRow 3 "PER.START" 0x201E
  | .perEnd => writeRow 4 "PER.END" 0x3093
  | .idRead =>
    { selector := 5, mnemonic := "ID.READ", outFormat := .cmd2, code := some 0x7029, kind := .wr, rdLen := 9,
      inFormat := some .id9, triples := idTriples, result := .identification }
  | .reg1Read => statusRow 6 "REG1.READ" .register1
  | .reg2Read => statusRow 7 "REG2.READ" .register2
  | .reg1Clr => writeRow 8 "REG1.CLR" 0x3041
  | .sReset => writeRow 9 "SRESET" 0x30A2
  | .gcReset =>
    { selector := 10, mnemonic := "GCRESET", outFormat := .gc1, code := none, kind := .w, rdLen := 0, inFormat := none,
      triples := [], result := .nothing }

/-- The mnemonic of an operation (R70). -/
def mnemonic (i : Instr) : String := (opRow i).mnemonic

/-! ## Decoders -/

/-- The first operation of the table whose row satisfies a test. -/
def firstRow (test : OpRow → Bool) : Option Instr := Instr.all.find? fun i => test (opRow i)

/-- The operation a selector names; `11 .. 15` name none (R70, R82). -/
def decodeSelector (sel : BitVec 4) : Except DecodeError Instr :=
  match firstRow fun r => r.selector == sel with
  | some i => .ok i
  | none => .error (.unknownSelector sel)

/-- The operation of a 16-bit command code, by exact match on all sixteen bits (R81). The code of the two status reads is one;
DESIGN CHOICE: it is read as the first of the two rows (notes/assumptions/8.md). -/
def decodeCode (code : Word) : Except DecodeError Instr :=
  match firstRow fun r => r.code == some code with
  | some i => .ok i
  | none => .error (.unknownCode code)

/-- The operation whose outgoing frame these bytes are: two bytes are a command code, most significant byte first (R42, R73),
one byte is the general-call reset byte (R74), and no other length is ever sent (R84). -/
def decode : List Byte → Except DecodeError Instr
  | [hi, lo] => decodeCode (hi ++ lo)
  | [b] => if b = Config.gcResetByte then .ok .gcReset else .error (.notTheResetByte b)
  | out => .error (.badLength out.length)

/-- A decoder of bus traffic (R81): a two-byte write to `ADDR` by its code, a one-byte write of `GC_RESET_BYTE` to
`GC_ADDRESS`; nothing else is the block's. -/
def decodeTraffic (own addr : BusAddr) (out : List Byte) : Option Instr :=
  match decode out with
  | .error _ => none
  | .ok .gcReset => if addr = Config.gcAddress then some .gcReset else none
  | .ok i => if addr = own then some i else none

/-! ## Encoder -/

/-- The selector of an operation (R70). -/
def selector (i : Instr) : BitVec 4 := (opRow i).selector

/-- `frame(code)`: the two bytes of a command code, most significant first (R120). -/
def frame (code : Word) : List Byte := [code.extractLsb' 8 8, code.extractLsb' 0 8]

/-- The outgoing bytes of an operation: its command frame (R73), or the general-call reset byte (R74). -/
def encode (i : Instr) : List Byte :=
  match (opRow i).code with
  | some code => frame code
  | none => [Config.gcResetByte]

/-- The operation that stands for a frame: `REG1.READ` for the frame it shares with `REG2.READ`, else the operation itself
(R81). -/
def frameClass : Instr → Instr
  | .measCs => .measCs
  | .measNcs => .measNcs
  | .perFetch => .perFetch
  | .perStart => .perStart
  | .perEnd => .perEnd
  | .idRead => .idRead
  | .reg1Read => .reg1Read
  | .reg2Read => .reg1Read
  | .reg1Clr => .reg1Clr
  | .sReset => .sReset
  | .gcReset => .gcReset

/-! ## The opcode table's words -/

/-- The frame whose bytes the opcode table numbers as one word, `out[0]` in the most significant byte (R87). -/
def frameOfTableWord (nbits w : Nat) : List Byte :=
  (List.range (nbits / 8)).reverse.map fun k => BitVec.ofNat 8 (w / 256 ^ k)

/-- The operation the decoder reads from a word of the opcode table. -/
def decodeTableWord (nbits w : Nat) : Option Instr :=
  match decode (frameOfTableWord nbits w) with
  | .ok i => some i
  | .error _ => none

/-- The caller's request for the operation a word of the opcode table names. A word that names none becomes the selector 15,
which names no operation (R82; notes/assumptions/8.md). -/
def requestOfTableWord (nbits w : Nat) : Request :=
  match decodeTableWord nbits w with
  | some i => .op (selector i)
  | none => .op 15

end Sys2Proof
end

