-- ==== Sys2Proof/Machine/State.lean ====
section
/-! DEFINITION. The machine's state as plain data (spec/10_state.md R20 to R33), its reset value (R32;
spec/70_reset_and_hazards.md R210), and the reasons a step can stop (spec/60_exceptions.md R184). -/

namespace Sys2Proof.Machine

/-- The `kind` of an outcome record (R29). -/
inductive OutcomeKind where
  | ok
  | checksumError
  | transportError
  deriving DecidableEq, Repr

/-- StatusCode: "an enumeration {Success, NotAcknowledged, ChecksumError, MeasurementError} plus an Unknown fallback; pure
classification value, carries no data" (R85). -/
inductive StatusCode where
  | success
  | notAcknowledged
  | checksumError
  | measurementError
  | unknown
  deriving DecidableEq, Repr

/-- The decoded fields of an outcome record, each absent where it has no value (R29, R30). -/
structure ResultFields where
  /-- Temperature in hundredths of a degree Celsius. -/
  tRaw  : Option Word
  /-- Relative humidity in hundredths of a percent. -/
  rhRaw : Option Word
  /-- The identification frame, first received byte first. -/
  id    : Option Bytes9
  /-- The status-register byte. -/
  reg   : Option Byte
  deriving DecidableEq, Repr

/-- The outcome record an operation hands to the caller (R29). A field with no value is absent, never zero and never an
earlier value (R30). -/
structure OutcomeRecord where
  kind   : OutcomeKind
  status : Option StatusCode
  fields : ResultFields
  terr   : Option TransportErr
  deriving DecidableEq, Repr

/-- The two failures (R180). `ChecksumError` carries nothing; `TransportError` carries what the collaborator gave. -/
inductive Failure where
  | checksumError
  | transportError (e : TransportErr)
  deriving DecidableEq, Repr

/-- The result of `BusWrite` (R44). -/
inductive WriteResult where
  | done
  | fail (e : TransportErr)
  deriving DecidableEq, Repr

/-- The result of `BusWriteRead` (R45). -/
inductive ReadResult where
  | bytes (b : List Byte)
  | fail (e : TransportErr)
  deriving DecidableEq, Repr

/-- One event of the bus history (R55): `W(addr, out, result)` or `WR(addr, out, n, result)`. -/
inductive Event where
  | w (addr : BusAddr) (out : List Byte) (result : WriteResult)
  | wr (addr : BusAddr) (out : List Byte) (n : Nat) (result : ReadResult)
  deriving DecidableEq, Repr

/-- The operation-local registers of R24 and R25. `RLEN` has no value until a response is received, `RB[i]` only for
`i < RLEN`, `CRC` and `CUR` only once the checksum engine has run. -/
structure LocalRegs where
  /-- `RLEN`, the length of the response received. -/
  rlen : Option (BitVec 4)
  /-- The response buffer `RB`, index 0 the first byte received. -/
  rb   : List Byte
  /-- `CRC`, the accumulator of the checksum engine. -/
  crc  : Option Byte
  /-- `CUR`, the shift register that holds the byte being absorbed. -/
  cur  : Option Byte
  deriving DecidableEq, Repr

/-- The sequencer (R32, R210): idle between operations, when the operation-local registers have no value (R26), or running one
operation, with its registers. -/
inductive Sequencer where
  | idle
  | running (regs : LocalRegs)
  deriving DecidableEq, Repr

/-- The state. `addr` and `sequencer` are the block's; `calls` and `answers` are what stands at its inputs, `history`,
`outcomes` and `crcReplies` what it has shown at its ports; `txCount` is the model's own. -/
structure State where
  /-- `ADDR`, the bus address register (R22). -/
  addr       : BusAddr
  /-- Idle, or in an operation with its registers `RB`, `RLEN`, `CRC`, `CUR` (R24 to R26, R210). -/
  sequencer  : Sequencer
  /-- The caller's requests not yet served, the next one first (R225). The block queues nothing (R60): the list is the caller's. -/
  calls      : List Request
  /-- The oracle's answers laid out for the next transactions, consumed one per transaction (R47). -/
  answers    : List Answer
  /-- The number of the next transaction, which indexes the free answers (the model's own; notes/assumptions/2.md). -/
  txCount    : Nat
  /-- The bus history, oldest event first (R55). -/
  history    : List Event
  /-- The outcome records handed to the caller, oldest first (R29, R225). -/
  outcomes   : List OutcomeRecord
  /-- The bytes the CRC port has replied, oldest first (R114). -/
  crcReplies : List Byte
  deriving DecidableEq, Repr

/-- Why the machine stops. -/
inductive Fault where
  /-- A step was asked of a state that lies inside an operation with no further request: the operation is waiting for a
  collaborator that never answers, "stuck, outside the block" (R151; spec/93_implementation_defined.md U20). Raised by
  Machine/Step.lean's `step` and by no operation's meaning. Safe: it stops where nothing is specified. -/
  | collaboratorSilent
  deriving DecidableEq, Repr

/-- Why the model gives a request no meaning (R184). -/
inductive Refusal where
  /-- An operation not modelled yet. Raised by an arm of Machine/Dispatch.lean; no arm raises it now. Safe. -/
  | notModelled (mnemonic : String)
  /-- A selector in `11 .. 15` (R82, U3). Raised by Machine/Caller.lean's `serveOperation`. Safe: no transaction, no outcome. -/
  | unknownSelector (sel : BitVec 4)
  /-- A request while an operation is in progress (R60, U10). Raised by Machine/Step.lean's `step`. Safe. -/
  | requestWhileBusy
  /-- A direct `compute` outside its contract (R48, U2). Raised by Machine/CrcPort.lean's `serveCrc`. Safe. -/
  | crcRangeOutsideContract
  deriving DecidableEq, Repr

/-- The state after reset (R210): `ADDR` holds `BUS_ADDRESS`, the sequencer is idle, the bus history is empty, and no outcome
record exists. Nothing is requested and no answer is laid out (notes/assumptions/5.md). -/
def State.reset : State :=
  { addr := Config.busAddress
    sequencer := .idle
    calls := []
    answers := []
    txCount := 0
    history := []
    outcomes := []
    crcReplies := [] }

end Sys2Proof.Machine
end

