-- ==== Sys2Proof/Machine/Checksum.lean ====
section
/-! DEFINITION. ChecksumEngine (spec/40_checksum.md): the pseudocode of R100, the byte step of R103 that the machine runs, the
bit step of R105, the table of R106, and the engine's registers `CRC` and `CUR` (spec/10_state.md R25). -/

namespace Sys2Proof.Machine

/-- `CRC_POLY`: `x^8 + x^5 + x^4 + 1` without its top term (R9, R101). -/
def crcPoly : Byte := 0x31

/-- `CRC_INIT` (R9, R101). -/
def crcInit : Byte := 0xFF

/-- `B[s:e]`, the half-open range `[s, e)` (R12). -/
def slice (b : List Byte) (s e : Nat) : List Byte := (b.take e).drop s

/-! ## The pseudocode of R100, on unbounded numbers -/

/-- One repetition on `(crc, cur)`: nothing is truncated (R100). The constant is the named `CRC_POLY` (R9, D24). -/
def docBit (p : Nat × Nat) : Nat × Nat :=
  (if (p.1 ^^^ p.2) &&& 0x80 != 0 then (p.1 <<< 1) ^^^ crcPoly.toNat else p.1 <<< 1, p.2 <<< 1)

/-- One byte of the loop: eight repetitions, then `crc AND 0xFF` (R100). -/
def docByte (crc : Nat) (b : Byte) : Nat := (Nat.iterate docBit 8 (crc, b.toNat)).1 &&& 0xFF

/-- `compute(buffer, start, end)` as the pseudocode of R100 writes it, from the named `CRC_INIT` (R9, D24). -/
def computeDoc (buffer : List Byte) (s e : Nat) : Nat := (slice buffer s e).foldl docByte crcInit.toNat

/-! ## The byte step of R103 -/

/-- One shift of the 8-bit register: the polynomial enters when the bit shifted out is 1 (R103). -/
def crcShift (x : Byte) : Byte := if x.getLsbD 7 then (x <<< 1) ^^^ crcPoly else x <<< 1

/-- `crc8_step(c, b)` (R103). -/
def crc8Step (c b : Byte) : Byte := Nat.iterate crcShift 8 (c ^^^ b)

/-- `crc8_from(c, B)` (R103). -/
def crc8From (c : Byte) (bytes : List Byte) : Byte := bytes.foldl crc8Step c

/-- `crc8(B)` (R103). -/
def crc8 (bytes : List Byte) : Byte := crc8From crcInit bytes

/-- `compute(buffer, start, end)`, on its contract domain `0 <= start <= end <= length(buffer)` (R100, R103). -/
def compute (buffer : List Byte) (s e : Nat) : Byte := crc8 (slice buffer s e)

/-- The table form: `T[x] = crc8_step(0x00, x)` (R106). -/
def crcTable (x : Byte) : Byte := crc8Step 0 x

/-! ## The serial form and the engine's registers -/

/-- `crc8_bit(c, d)`: one bit enters the register (R105). -/
def crc8Bit (c : Byte) (d : Bool) : Byte :=
  if Bool.xor (c.getLsbD 7) d then (c <<< 1) ^^^ crcPoly else c <<< 1

/-- One clock of the engine on `(CRC, CUR)`: the top bit of `CUR` enters `CRC`, and `CUR` shifts left (R105, R25). -/
def engineClock (p : Byte × Byte) : Byte × Byte := (crc8Bit p.1 (p.2.getLsbD 7), p.2 <<< 1)

/-- The engine absorbs one byte: `CUR` takes it and eight clocks run (R25, R105). -/
def LocalRegs.absorb (r : LocalRegs) (b : Byte) : LocalRegs :=
  match r.crc with
  | none => r
  | some c =>
    let p := Nat.iterate engineClock 8 (c, b)
    { r with crc := some p.1, cur := some p.2 }

/-- The engine computes a checksum: `CRC` starts at `0xFF`, `CUR` with no value, and the bytes are absorbed in order (R25,
R33, R100). -/
def LocalRegs.compute (r : LocalRegs) (bytes : List Byte) : LocalRegs :=
  bytes.foldl LocalRegs.absorb { r with crc := some crcInit, cur := none }

end Sys2Proof.Machine
end

