-- ==== Sys2Proof/Machine/Operands.lean ====
section
/-! DEFINITION. The operand forms: the registers `RB` and `RLEN` (spec/10_state.md R24, R26), the 16-bit field (spec/42_decoder.md
R130), its scaling (R132, R135), and the decoders (R137 to R139). -/

namespace Sys2Proof.Machine

/-- The operation-local registers when an operation begins: none has a value (R26). -/
def LocalRegs.blank : LocalRegs := { rlen := none, rb := [], crc := none, cur := none }

/-- The response registers take a response: `RLEN <- n`, `RB[i] <- B[i]` for `0 <= i < n` (R45). -/
def LocalRegs.load (r : LocalRegs) (n : Nat) (b : List Byte) : LocalRegs :=
  { r with rlen := some (BitVec.ofNat 4 n), rb := b }

/-- The bytes of `RB` that have a value: those below `RLEN` (R24, R26). -/
def LocalRegs.received (r : LocalRegs) : List Byte :=
  match r.rlen with
  | none => []
  | some n => r.rb.take n.toNat

/-- `RB[i]`, absent where it has no value (R26). -/
def LocalRegs.readRB (r : LocalRegs) (i : Nat) : Option Byte := r.received[i]?

/-- `be16(hi, lo) = hi*256 + lo`: 16 bits, unsigned (R130, R133). -/
def be16 (hi lo : Byte) : Word := BitVec.ofNat 16 (hi.toNat * 256 + lo.toNat)

/-- No decoded field has a value (R30). -/
def ResultFields.none : ResultFields := { tRaw := .none, rhRaw := .none, id := .none, reg := .none }

/-- A 16-bit field of the response buffer, the byte at `i` the more significant (R42, R79). -/
def LocalRegs.readField (r : LocalRegs) (i : Nat) : Option Word := do
  let hi ← r.readRB i
  let lo ← r.readRB (i + 1)
  pure (be16 hi lo)

/-- `decode_meas(RB)` (R137): temperature from bytes 0 and 1, humidity from bytes 3 and 4. -/
def decodeMeas (r : LocalRegs) : ResultFields :=
  { ResultFields.none with tRaw := r.readField 0, rhRaw := r.readField 3 }

/-- `decode_id(RB)` (R138): all nine bytes, the checksum byte included, in bus order. -/
def decodeId (r : LocalRegs) : ResultFields :=
  { ResultFields.none with
    id := match r.received with
      | [b0, b1, b2, b3, b4, b5, b6, b7, b8] => some ⟨b0, b1, b2, b3, b4, b5, b6, b7, b8⟩
      | _ => Option.none }

/-- `decode_reg1(RB)` (R139): byte 0. -/
def decodeReg1 (r : LocalRegs) : ResultFields := { ResultFields.none with reg := r.readRB 0 }

/-- `decode_reg2(RB)` (R139): byte 1. -/
def decodeReg2 (r : LocalRegs) : ResultFields := { ResultFields.none with reg := r.readRB 1 }

/-- The write-only operations decode nothing (R153). -/
def decodeNothing (_ : LocalRegs) : ResultFields := ResultFields.none

/-- `decode(op)` by the result column of the operation's row (R150, R153). -/
def decodeResult : ResultForm → LocalRegs → ResultFields
  | .nothing => decodeNothing
  | .measurement => decodeMeas
  | .identification => decodeId
  | .register1 => decodeReg1
  | .register2 => decodeReg2

/-! ## What a raw count means -/

/-- `SCALE` (R9). -/
def scale : Nat := 100

/-- The physical value of a raw count: `raw / 100`, exact in the rationals (R132, R134). Degrees Celsius for `t_raw`, percent
relative humidity for `rh_raw`. -/
def physical (raw : Word) : Rat := (raw.toNat : Rat) / (scale : Rat)

/-- `whole = raw div 100` (R135). -/
def wholePart (raw : Word) : Nat := raw.toNat / scale

/-- `hundredths = raw mod 100` (R135). -/
def hundredthsPart (raw : Word) : Nat := raw.toNat % scale

/-- The printed form: `whole`, a point, `hundredths` as two digits (R135). -/
def printRaw (raw : Word) : String :=
  toString (wholePart raw) ++ "." ++ toString (hundredthsPart raw / 10) ++ toString (hundredthsPart raw % 10)

end Sys2Proof.Machine
end

