-- ==== Sys2Proof/Machine/Flags.lean ====
section
/-! DEFINITION. The block has no flags (spec/10_state.md R28). What classifies a result is the outcome record (R29) and its
StatusCode (spec/30_encoding.md R85): their codes, and the record each ending of an operation produces
(spec/43_operations.md R153). -/

namespace Sys2Proof.Machine

/-- `OK = 0`, `CHECKSUM_ERROR = 1`, `TRANSPORT_ERROR = 2` (R29). -/
def OutcomeKind.code : OutcomeKind → BitVec 2
  | .ok => 0
  | .checksumError => 1
  | .transportError => 2

/-- The 3-bit codes of R85. -/
def StatusCode.code : StatusCode → BitVec 3
  | .success => 0
  | .notAcknowledged => 1
  | .checksumError => 2
  | .measurementError => 3
  | .unknown => 7

/-- Every 3-bit value that is not 0 to 3 classifies as `Unknown` (R85). -/
def StatusCode.classify (c : BitVec 3) : StatusCode :=
  match c.toNat with
  | 0 => .success
  | 1 => .notAcknowledged
  | 2 => .checksumError
  | 3 => .measurementError
  | _ => .unknown

/-- The status of an outcome kind: a transport failure has none (R29, R153). -/
def statusOf : OutcomeKind → Option StatusCode
  | .ok => some .success
  | .checksumError => some .checksumError
  | .transportError => none

/-- The record of an operation that ends with `OK` (R153). -/
def okRecord (f : ResultFields) : OutcomeRecord :=
  { kind := .ok, status := statusOf .ok, fields := f, terr := none }

/-- The record of an operation that fails: no decoded field has a value (R153, R189). -/
def failureRecord : Failure → OutcomeRecord
  | .checksumError =>
    { kind := .checksumError, status := statusOf .checksumError, fields := ResultFields.none, terr := none }
  | .transportError e =>
    { kind := .transportError, status := statusOf .transportError, fields := ResultFields.none, terr := some e }

end Sys2Proof.Machine
end

