-- ==== Sys2Proof/Machine/Ops.lean ====
section
/-! DEFINITION. The shared operations: the framer (spec/41_framer.md R121), the two bus primitives (spec/20_memory.md R44,
R45), the response validator (spec/40_checksum.md R110), the end of an operation and the raising of a failure
(spec/60_exceptions.md R187), and the sequence every operation runs (spec/43_operations.md R150). -/

namespace Sys2Proof.Machine

/-! ## The framer -/

/-- `framer(op)`: the request to the collaborator (R121). Only the general call ignores `ADDR` (R122). -/
def framer (i : Instr) (addr : BusAddr) : BusReq :=
  match (opRow i).outFormat with
  | .gc1 => { kind := .w, addr := Config.gcAddress, out := encode i, n := 0 }
  | .cmd2 =>
    match (opRow i).kind with
    | .wr => { kind := .wr, addr := addr, out := encode i, n := (opRow i).rdLen }
    | .w => { kind := .w, addr := addr, out := encode i, n := 0 }

/-! ## The bus primitives -/

/-- The oracle's answer to the next transaction: the one laid out for it, else a free value (R47). -/
def State.nextAnswer (s : State) : Answer :=
  match s.answers with
  | [] => Config.freeAnswer s.txCount
  | a :: _ => a

/-- One transaction is over: its answer is consumed and its event recorded (R47, R55). -/
def State.record (s : State) (ev : Event) : State :=
  { s with answers := s.answers.tail, txCount := s.txCount + 1, history := s.history ++ [ev] }

/-- What a write is told by an answer (R44). -/
def Answer.toWrite : Answer → WriteResult
  | .success _ => .done
  | .fail e => .fail e

/-- What a read of `n` bytes is told by an answer: exactly `n` bytes, or the failure (R45, R46). -/
def Answer.toRead (n : Nat) : Answer → ReadResult
  | .success v => .bytes (v.toList.take n)
  | .fail e => .fail e

/-- `BusWrite(addr, out)` (R44). -/
def State.busWrite (s : State) (addr : BusAddr) (out : List Byte) : WriteResult × State :=
  let r := Answer.toWrite s.nextAnswer
  (r, s.record (.w addr out r))

/-- `BusWriteRead(addr, out, n)` (R45). -/
def State.busWriteRead (s : State) (addr : BusAddr) (out : List Byte) (n : Nat) : ReadResult × State :=
  let r := Answer.toRead n s.nextAnswer
  (r, s.record (.wr addr out n r))

/-! ## The response validator -/

/-- One protected triple: the engine computes the checksum of `RB[s:e]` and the result is compared with `RB[k]` (R110). -/
def LocalRegs.check (r : LocalRegs) (t : Triple) : Bool × LocalRegs :=
  let r' := r.compute (slice r.received t.s t.e)
  (r'.crc == r.readRB t.k, r')

/-- `validate(op)`: the triples in the order listed, stopping at the first that fails (R110, R111). -/
def LocalRegs.validate (r : LocalRegs) : List Triple → Bool × LocalRegs
  | [] => (true, r)
  | t :: ts =>
    match r.check t with
    | (true, r') => r'.validate ts
    | (false, r') => (false, r')

/-! ## The end of an operation -/

/-- An operation begins: the sequencer leaves idle, and no operation-local register has a value (R26, R167). -/
def State.accept (s : State) : State := { s with sequencer := .running LocalRegs.blank }

/-- The operation-local registers take new values (R24, R25). -/
def State.withRegs (s : State) (r : LocalRegs) : State := { s with sequencer := .running r }

/-- The operation-local registers; between operations none has a value (R26). -/
def State.regs (s : State) : LocalRegs :=
  match s.sequencer with
  | .idle => LocalRegs.blank
  | .running r => r

/-- An operation ends: its record goes to the caller, the operation-local registers lose their values and the sequencer is idle
again (R152, R167, R187). -/
def State.finish (s : State) (o : OutcomeRecord) : State :=
  { s with sequencer := .idle, outcomes := s.outcomes ++ [o] }

/-- A failure is raised: the operation ends at once with the failure's record; nothing is saved, and no handler inside the
block runs (R187). There is no return from it and none is needed (R191): the sequencer is idle. -/
def State.raise (s : State) (f : Failure) : State := s.finish (failureRecord f)

/-! ## The sequence every operation runs -/

/-- After the frame is received: validate, and decode only when every triple of the row has matched (R112, R150). -/
def State.validateAndDecode (s : State) (row : OpRow) : State :=
  match s.regs.validate row.triples with
  | (true, r) => (s.withRegs r).finish (okRecord (decodeResult row.result r))
  | (false, r) => (s.withRegs r).raise .checksumError

/-- `run(op)` for a write (R150): one transaction, no value. -/
def State.runWrite (s : State) (req : BusReq) (row : OpRow) : State :=
  match s.busWrite req.addr req.out with
  | (.done, s') => s'.finish (okRecord (decodeResult row.result s'.regs))
  | (.fail e, s') => s'.raise (.transportError e)

/-- `run(op)` for a write followed by a read (R150): one transaction, then validation, then decoding. -/
def State.runRead (s : State) (req : BusReq) (row : OpRow) : State :=
  match s.busWriteRead req.addr req.out req.n with
  | (.bytes b, s') => (s'.withRegs (s'.regs.load req.n b)).validateAndDecode row
  | (.fail e, s') => s'.raise (.transportError e)

/-- `run(op)` (R150): frame, transact, validate, decode, in this order; it always ends (R151). All that tells one operation from
another is its row (R126). -/
def State.run (s : State) (i : Instr) : State :=
  let req := framer i s.addr
  match req.kind with
  | .w => s.accept.runWrite req (opRow i)
  | .wr => s.accept.runRead req (opRow i)

/-- The CRC port replies a byte (R114). -/
def State.replyCrc (s : State) (b : Byte) : State := { s with crcReplies := s.crcReplies ++ [b] }

/-- The caller's next requests are these (R225). -/
def State.withCalls (s : State) (calls : List Request) : State := { s with calls := calls }

/-! ## Written form -/

/-- A byte as two hexadecimal digits (R86). -/
def hexByte (b : Byte) : String :=
  let digit (n : Nat) : String := String.singleton ("0123456789ABCDEF".toList.getD n '?')
  digit (b.toNat / 16) ++ digit (b.toNat % 16)

/-- The oracle's answer to an event, as R86 writes it. -/
def Event.answerText : Event → String
  | .w _ _ .done => "-> done"
  | .w _ _ (.fail e) => "-> fail(" ++ toString e.payload.toNat ++ ")"
  | .wr _ _ _ (.bytes b) => "-> bytes(" ++ String.intercalate " " (b.map hexByte) ++ ")"
  | .wr _ _ _ (.fail e) => "-> fail(" ++ toString e.payload.toNat ++ ")"

/-- One line of a program (R86): the mnemonic, then after a semicolon the answer of its transaction. -/
def asmLine (i : Instr) (ev : Event) : String := mnemonic i ++ " ; " ++ ev.answerText

end Sys2Proof.Machine
end

