-- ==== Sys2Proof/Machine/CrcPort.lean ====
section
/-! DEFINITION. The CRC port (spec/40_checksum.md R114): `compute` used directly by the caller. -/

namespace Sys2Proof.Machine

/-- A request `(buffer, start, end)` (R114): one byte in reply, no transaction, no outcome record. Outside the contract of
`compute` the model refuses (R48, R102). -/
def serveCrc (buffer : List Byte) (start stop : Int) (s : State) : Host.Outcome State Fault Refusal :=
  if rangeOk buffer.length start stop then
    .next (s.replyCrc (compute buffer start.toNat stop.toNat))
  else
    .refused .crcRangeOutsideContract

end Sys2Proof.Machine
end

