-- ==== Sys2Proof/Machine/Identification.lean ====
section
/-! DEFINITION. The identification read (spec/43_operations.md R161). -/

namespace Sys2Proof.Machine

/-- `ID.READ` (R161): frame `70 29`, nine bytes back, one range of eight checked, all nine returned. -/
def execIdRead (s : State) : Host.Outcome State Fault Refusal := .next (s.run .idRead)

end Sys2Proof.Machine
end

