-- ==== Sys2Proof/Machine/Measurement.lean ====
section
/-! DEFINITION. The measurement operations (spec/43_operations.md R156 to R158). -/

namespace Sys2Proof.Machine

/-- `MEAS.CS` (R156): frame `2C 1B`, six bytes back, both ranges checked, temperature and humidity returned. -/
def execMeasCs (s : State) : Host.Outcome State Fault Refusal := .next (s.run .measCs)

/-- `MEAS.NCS` (R157): as `MEAS.CS`, with frame `24 1D`. -/
def execMeasNcs (s : State) : Host.Outcome State Fault Refusal := .next (s.run .measNcs)

/-- `PER.FETCH` (R158): as `MEAS.CS`, with frame `E0 00`; nothing checks that `PER.START` came first (R155). -/
def execPerFetch (s : State) : Host.Outcome State Fault Refusal := .next (s.run .perFetch)

end Sys2Proof.Machine
end

