-- ==== Sys2Proof/Machine/Periodic.lean ====
section
/-! DEFINITION. Periodic-mode control (spec/43_operations.md R159, R160). -/

namespace Sys2Proof.Machine

/-- `PER.START` (R159): frame `20 1E`, write-only; the block keeps no record that the mode is on. -/
def execPerStart (s : State) : Host.Outcome State Fault Refusal := .next (s.run .perStart)

/-- `PER.END` (R160): frame `30 93`, write-only. -/
def execPerEnd (s : State) : Host.Outcome State Fault Refusal := .next (s.run .perEnd)

end Sys2Proof.Machine
end

