-- ==== Sys2Proof/Machine/Resets.lean ====
section
/-! DEFINITION. The resets of the sensor side (spec/43_operations.md R165, R166; spec/70_reset_and_hazards.md R214). -/

namespace Sys2Proof.Machine

/-- `SRESET` (R165): frame `30 A2`, write-only; it resets the sensor at `ADDR`, not the block. -/
def execSReset (s : State) : Host.Outcome State Fault Refusal := .next (s.run .sReset)

/-- `GCRESET` (R166): the one byte `GC_RESET_BYTE` to `GC_ADDRESS`, write-only. -/
def execGcReset (s : State) : Host.Outcome State Fault Refusal := .next (s.run .gcReset)

end Sys2Proof.Machine
end

