-- ==== Sys2Proof/Machine/StatusRegisters.lean ====
section
/-! DEFINITION. The status registers (spec/43_operations.md R162 to R164). -/

namespace Sys2Proof.Machine

/-- `REG1.READ` (R162): frame `F3 2D`, three bytes back, byte 0 returned. -/
def execReg1Read (s : State) : Host.Outcome State Fault Refusal := .next (s.run .reg1Read)

/-- `REG2.READ` (R163): a transaction of its own with the frame of `REG1.READ`, byte 1 returned. -/
def execReg2Read (s : State) : Host.Outcome State Fault Refusal := .next (s.run .reg2Read)

/-- `REG1.CLR` (R164): frame `30 41`, write-only. -/
def execReg1Clr (s : State) : Host.Outcome State Fault Refusal := .next (s.run .reg1Clr)

end Sys2Proof.Machine
end

