-- ==== Sys2Proof/Machine/Dispatch.lean ====
section
/-! DEFINITION. One arm per operation of spec/30_encoding.md R70. -/

namespace Sys2Proof.Machine

def exec (i : Instr) (s : State) : Host.Outcome State Fault Refusal :=
  match i with
  | .measCs => Sys2Proof.Machine.execMeasCs s
  | .measNcs => Sys2Proof.Machine.execMeasNcs s
  | .perFetch => Sys2Proof.Machine.execPerFetch s
  | .perStart => Sys2Proof.Machine.execPerStart s
  | .perEnd => Sys2Proof.Machine.execPerEnd s
  | .idRead => Sys2Proof.Machine.execIdRead s
  | .reg1Read => Sys2Proof.Machine.execReg1Read s
  | .reg2Read => Sys2Proof.Machine.execReg2Read s
  | .reg1Clr => Sys2Proof.Machine.execReg1Clr s
  | .sReset => Sys2Proof.Machine.execSReset s
  | .gcReset => Sys2Proof.Machine.execGcReset s

end Sys2Proof.Machine
end

