-- ==== Sys2Proof/Machine/Caller.lean ====
section
/-! DEFINITION. How a request of the caller is served (spec/30_encoding.md R70, R82; spec/92_eei_decisions.md D2). -/

namespace Sys2Proof.Machine

/-- A request of the caller port: the operation its selector names; a selector that names none is refused (R82). -/
def serveOperation (sel : BitVec 4) (s : State) : Host.Outcome State Fault Refusal :=
  match decodeSelector sel with
  | .ok i => exec i s
  | .error _ => .refused (.unknownSelector sel)

/-- A request of either port. -/
def serveRequest (r : Request) (s : State) : Host.Outcome State Fault Refusal :=
  match r with
  | .op sel => serveOperation sel s
  | .crc buffer start stop => serveCrc buffer start stop s

/-- An idle block with no request stays as it is: nothing runs until the caller requests an operation (R210). With a request,
it serves the first (R55). -/
def serveNext (s : State) : Host.Outcome State Fault Refusal :=
  match s.calls with
  | [] => .next s
  | r :: rest => serveRequest r (s.withCalls rest)

/-- A step asked while an operation is in progress: a further request is not admitted (R60), and without one the operation is
waiting for a collaborator that never answers (U20). -/
def stepWhileRunning (s : State) : Host.Outcome State Fault Refusal :=
  match s.calls with
  | [] => .fault .collaboratorSilent
  | _ :: _ => .refused .requestWhileBusy

end Sys2Proof.Machine
end

