-- ==== Sys2Proof/Machine/Step.lean ====
section
/-! DEFINITION. One step of the machine: one whole request of the caller (spec/43_operations.md R152). The block has no program
counter and fetches nothing (spec/10_state.md R27): the next operation is the caller's next request. -/

namespace Sys2Proof.Machine

/-- One step (R152). -/
def step (s : State) : Host.Outcome State Fault Refusal :=
  match s.sequencer with
  | .idle => serveNext s
  | .running _ => stepWhileRunning s

/-- `s` with the caller's next request the operation that a word of the opcode table names (notes/assumptions/5.md). -/
def State.withFetchWord (s : State) (nbits w : Nat) : State :=
  { s with sequencer := .idle, calls := requestOfTableWord nbits w :: s.calls }

end Sys2Proof.Machine
end

