-- ==== Sys2Proof/Safety.lean ====
section
/-! DEFINITION. The terms in which claims about runs are made: what one transaction leaves behind (spec/43_operations.md R152), what
a valid frame is by the pseudocode of R100 (spec/40_checksum.md R110), the record each operation owes for a result (R153), and
the account that the bus history gives of the outcomes. -/

namespace Sys2Proof.Machine

/-- `s` after one operation whose transaction was `ev` and whose outcome was `o` (R152): exactly one event, exactly one outcome
record, an idle sequencer, the oracle's answer consumed, and nothing else changed. -/
def State.after (s : State) (ev : Event) (o : OutcomeRecord) : State :=
  { s with
    sequencer := .idle
    answers := s.answers.tail
    txCount := s.txCount + 1
    history := s.history ++ [ev]
    outcomes := s.outcomes ++ [o] }

/-- Every protected range's checksum, by the pseudocode of R100, equals its trailing byte (R110). -/
def frameValid (triples : List Triple) (b : List Byte) : Bool :=
  triples.all fun t => b[t.k]?.map BitVec.toNat == some (computeDoc b t.s t.e)

/-- The 16-bit big-endian unsigned field at `i`, `hi*256 + lo` (R42, R130). -/
def fieldAt (b : List Byte) (i : Nat) : Option Word :=
  match b[i]?, b[i + 1]? with
  | some hi, some lo => some (BitVec.ofNat 16 (hi.toNat * 256 + lo.toNat))
  | _, _ => none

/-- The decoded fields an operation owes for a valid response (R75, R153). -/
def fieldsOwed : Instr → List Byte → ResultFields
  | .measCs, b => { tRaw := fieldAt b 0, rhRaw := fieldAt b 3, id := none, reg := none }
  | .measNcs, b => { tRaw := fieldAt b 0, rhRaw := fieldAt b 3, id := none, reg := none }
  | .perFetch, b => { tRaw := fieldAt b 0, rhRaw := fieldAt b 3, id := none, reg := none }
  | .idRead, [b0, b1, b2, b3, b4, b5, b6, b7, b8] =>
    { tRaw := none, rhRaw := none, id := some ⟨b0, b1, b2, b3, b4, b5, b6, b7, b8⟩, reg := none }
  | .idRead, _ => { tRaw := none, rhRaw := none, id := none, reg := none }
  | .reg1Read, b => { tRaw := none, rhRaw := none, id := none, reg := b[0]? }
  | .reg2Read, b => { tRaw := none, rhRaw := none, id := none, reg := b[1]? }
  | .perStart, _ => { tRaw := none, rhRaw := none, id := none, reg := none }
  | .perEnd, _ => { tRaw := none, rhRaw := none, id := none, reg := none }
  | .reg1Clr, _ => { tRaw := none, rhRaw := none, id := none, reg := none }
  | .sReset, _ => { tRaw := none, rhRaw := none, id := none, reg := none }
  | .gcReset, _ => { tRaw := none, rhRaw := none, id := none, reg := none }

/-- A byte sequence with one bit flipped: bit 0 is the most significant bit of the first byte, the first to enter the checksum
register (R42). -/
def flipBit (b : List Byte) (i : Nat) : List Byte := b.modify (i / 8) fun x => x ^^^ ((0x80 : Byte) >>> (i % 8))

/-- The number of bits set in a byte sequence. -/
def weight (b : List Byte) : Nat := (b.map fun x => (List.range 8).countP fun j => x.getLsbD j).sum

/-- The record of a checksum failure (R153, R181). -/
def checksumRecord : OutcomeRecord :=
  { kind := .checksumError, status := some .checksumError, fields := ⟨none, none, none, none⟩, terr := none }

/-- The record of a transport failure (R153, R182). -/
def transportRecord (e : TransportErr) : OutcomeRecord :=
  { kind := .transportError, status := none, fields := ⟨none, none, none, none⟩, terr := some e }

/-- The record of a success (R153). -/
def successRecord (f : ResultFields) : OutcomeRecord :=
  { kind := .ok, status := some .success, fields := f, terr := none }

/-- The record an operation owes for the response it received (R110, R153). -/
def recordOwed (i : Instr) (b : List Byte) : OutcomeRecord :=
  if frameValid (opRow i).triples b then successRecord (fieldsOwed i b) else checksumRecord

/-- An event accounts for an outcome record of an operation of a block at `own`: it is that operation's transaction, and the
record is what its result owes (R121, R150, R153). -/
def accountsFor (own : BusAddr) (i : Instr) : Event → OutcomeRecord → Prop
  | .w addr out .done, o =>
    (opRow i).kind = .w ∧ addr = (framer i own).addr ∧ out = encode i ∧ o = successRecord ⟨none, none, none, none⟩
  | .w addr out (.fail e), o =>
    (opRow i).kind = .w ∧ addr = (framer i own).addr ∧ out = encode i ∧ o = transportRecord e
  | .wr addr out n (.bytes b), o =>
    (opRow i).kind = .wr ∧ addr = own ∧ out = encode i ∧ n = (opRow i).rdLen ∧ b.length = n ∧ o = recordOwed i b
  | .wr addr out n (.fail e), o =>
    (opRow i).kind = .wr ∧ addr = own ∧ out = encode i ∧ n = (opRow i).rdLen ∧ o = transportRecord e

/-- The bus history accounts for every outcome handed out: event by event and record by record, in order, one for one, each by
some operation (R55, R152). -/
def State.accounted (s : State) : Prop :=
  List.Forall₂ (fun ev o => ∃ i, accountsFor s.addr i ev o) s.history s.outcomes

/-- The state lies between operations: the sequencer is idle, so that `RB`, `RLEN`, `CRC` and `CUR` have no value (R26). -/
def State.betweenOperations (s : State) : Prop := s.sequencer = .idle

/-- The block's invariant: it is between operations and its history accounts for its outcomes. -/
def State.sound (s : State) : Prop := s.betweenOperations ∧ s.accounted

/-- The fields of a record that may have a value, by its kind (R29, R153): on success exactly one of the four results (a pair of
measurements, an identification, a register, or nothing), on a failure none; `terr` on a transport failure only. -/
def OutcomeRecord.legal (o : OutcomeRecord) : Bool :=
  match o.kind with
  | .ok =>
    o.status == some .success && o.terr.isNone &&
      (match o.fields.tRaw, o.fields.rhRaw, o.fields.id, o.fields.reg with
       | some _, some _, none, none => true
       | none, none, some _, none => true
       | none, none, none, some _ => true
       | none, none, none, none => true
       | _, _, _, _ => false)
  | .checksumError =>
    o.status == some .checksumError && o.terr.isNone && o.fields == ⟨none, none, none, none⟩
  | .transportError =>
    o.status == none && o.terr.isSome && o.fields == ⟨none, none, none, none⟩

end Sys2Proof.Machine
end

