-- ==== Sys2Proof/Certificates/Slice0/Obligations.lean ====
section
/-! DEFINITION. The statements for the provers, one definition each. A checksum is always that of the pseudocode of R100
(`computeDoc`), whatever form the machine runs. -/

open Sys2Proof Sys2Proof.Machine

/-! ## Encodings -/

/-- R70, R82: the selectors number the eleven operations as the table of R70 does, each selector names its operation and no
other, and `11 .. 15` name none. -/
def Obligations.SelectorNamesExactlyTheElevenOperations : Prop :=
  ([Instr.measCs, .measNcs, .perFetch, .perStart, .perEnd, .idRead, .reg1Read, .reg2Read, .reg1Clr, .sReset,
    .gcReset].map fun i => (selector i).toNat) = List.range 11 ∧
  (∀ i : Instr, decodeSelector (selector i) = .ok i) ∧
  (∀ (sel : BitVec 4) (i : Instr), decodeSelector sel = .ok i → selector i = sel) ∧
  (∀ sel : BitVec 4, 11 ≤ sel.toNat ↔ decodeSelector sel = .error (.unknownSelector sel))

/-- R72, R74, R83: the frame of one operation or more of each family, written out from the spec, decodes to the operation, and a
code outside the nine is rejected by name. One clause is the model's choice and no rule's: `F3 2D` is the frame of both status
reads (R81), and the model reads it as `REG1.READ` (DESIGN CHOICE, notes/assumptions/8.md). -/
def Obligations.FramesOfEachFamilyDecode : Prop :=
  decode [0x2C, 0x1B] = .ok .measCs ∧ decode [0x20, 0x1E] = .ok .perStart ∧ decode [0x70, 0x29] = .ok .idRead ∧
  decode [0xF3, 0x2D] = .ok .reg1Read ∧ decode [0x30, 0x41] = .ok .reg1Clr ∧ decode [0x30, 0xA2] = .ok .sReset ∧
  decode [Config.gcResetByte] = .ok .gcReset ∧ decode [0x2C, 0x1C] = .error (.unknownCode 0x2C1C)

/-- R81, R83: bytes decode to an operation exactly when they are its frame; the only two operations with one frame are the two
status reads, whose frame decodes to `REG1.READ` (the model's choice, notes/assumptions/8.md). -/
def Obligations.DecodeAndEncodeAgree : Prop :=
  (∀ i : Instr, decode (encode i) = .ok (frameClass i)) ∧
  (∀ (out : List Byte) (i : Instr), decode out = .ok i → encode i = out) ∧
  (∀ i j : Instr, encode i = encode j → i = j ∨ (i = .reg1Read ∧ j = .reg2Read) ∨ (i = .reg2Read ∧ j = .reg1Read))

/-- R124: `frame` is injective with inverse `out[0]*256 + out[1]`, the nine codes give nine different frames, and `framer` fails
to be injective at the two status reads and nowhere else. -/
def Obligations.FrameIsInvertedByItsTwoBytes : Prop :=
  (∀ code : Word, ∃ hi lo : Byte, frame code = [hi, lo] ∧ hi.toNat * 256 + lo.toNat = code.toNat) ∧
  (∀ code code' : Word, frame code = frame code' → code = code') ∧
  ([0x2C1B, 0x241D, 0xE000, 0x201E, 0x3093, 0x7029, 0xF32D, 0x3041, 0x30A2].map frame).Nodup ∧
  (∀ own : BusAddr, framer .reg1Read own = framer .reg2Read own) ∧
  (∀ (i j : Instr) (own : BusAddr), framer i own = framer j own →
    i = j ∨ (i = .reg1Read ∧ j = .reg2Read) ∨ (i = .reg2Read ∧ j = .reg1Read))

/-- R81: a decoder of bus traffic recovers nine classes from two-byte writes to `ADDR`, the general call from its one byte at
`GC_ADDRESS`, and nothing from any other write. That the class of the frame the two status reads share is answered as `REG1.READ`
and never as `REG2.READ` (`frameClass i = i`) is the model's choice and not R81's (DESIGN CHOICE, notes/assumptions/8.md). -/
def Obligations.TrafficDecodesByAddressAndFrame : Prop :=
  ∀ (own addr : BusAddr) (out : List Byte) (i : Instr),
    decodeTraffic own addr out = some i ↔
      (frameClass i = i ∧ out = encode i ∧ addr = (framer i own).addr)

/-! ## Registers and fields -/

/-- R49: every protected triple the block uses is one of the four the rule lists with the length of its frame and lies inside
it, so that the validator never reads a byte with no value and never leaves the contract of `compute`. -/
def Obligations.ProtectedRangesLieInsideTheFrame : Prop :=
  ∀ i : Instr, ∀ t ∈ (opRow i).triples,
    (t, (opRow i).rdLen) ∈ [((⟨0, 2, 2⟩ : Triple), 6), (⟨3, 5, 5⟩, 6), (⟨0, 8, 8⟩, 9), (⟨0, 2, 2⟩, 3)] ∧
    t.s < t.e ∧ t.e = t.k ∧ t.k < (opRow i).rdLen ∧
    ∀ (r : LocalRegs) (b : List Byte), b.length = (opRow i).rdLen →
      rangeOk (r.load (opRow i).rdLen b).received.length t.s t.e = true ∧
      ∀ j, t.s ≤ j → j ≤ t.k → ∃ x, (r.load (opRow i).rdLen b).readRB j = some x ∧ b[j]? = some x

/-- R24, R26, R45: a received response gives `RLEN` its length and `RB[i]` a value exactly for `i < RLEN`; when an operation
begins no operation-local register has a value (held as an absent value: the model's choice, notes/assumptions/7.md). -/
def Obligations.ResponseRegistersHoldExactlyTheResponse : Prop :=
  (∀ (r : LocalRegs) (b : List Byte), b.length ∈ [3, 6, 9] →
    (r.load b.length b).rlen.map BitVec.toNat = some b.length ∧
    (∀ j, (r.load b.length b).readRB j = b[j]?) ∧
    ∀ j, ((r.load b.length b).readRB j).isSome ↔ j < b.length) ∧
  (∀ s : State, s.accept.regs.rlen = none ∧ s.accept.regs.crc = none ∧ s.accept.regs.cur = none ∧
    ∀ j, s.accept.regs.readRB j = none)

/-- R130, R131: `be16` is `hi*256 + lo`, without overflow, and a bijection with inverse `raw div 256`, `raw mod 256`. -/
def Obligations.FieldAssemblyIsABijection : Prop :=
  (∀ hi lo : Byte, (be16 hi lo).toNat = hi.toNat * 256 + lo.toNat) ∧
  (∀ raw : Word, ∃ hi lo : Byte, be16 hi lo = raw ∧ hi.toNat = raw.toNat / 256 ∧ lo.toNat = raw.toNat % 256) ∧
  (∀ hi lo hi' lo' : Byte, be16 hi lo = be16 hi' lo' → hi = hi' ∧ lo = lo')

/-- R132, R133, R135: a raw count is an unsigned count of hundredths, `0.00 .. 655.35`, and splits exactly. The unsigned reading
is decision D9, which the source does not settle (conflict C1, U19): for raw counts of 32768 and above this statement rests on it
(DEDUCED, unsafe, notes/assumptions/9.md). -/
def Obligations.RawCountSplitsIntoWholeAndHundredths : Prop :=
  ∀ raw : Word,
    physical raw = (wholePart raw : Rat) + (hundredthsPart raw : Rat) / 100 ∧
    physical raw * 100 = (raw.toNat : Rat) ∧ 0 ≤ physical raw ∧ physical raw ≤ 65535 / 100 ∧
    wholePart raw ≤ 655 ∧ hundredthsPart raw ≤ 99

/-! ## The checksum engine -/

/-- R103: for every byte sequence, `crc8` is the result of the pseudocode of R100; with the rule's worked example. -/
def Obligations.ByteFormChecksumEqualsThePseudocode : Prop :=
  (∀ b : List Byte, (crc8 b).toNat = computeDoc b 0 b.length) ∧
  crc8Step 0xFF 0x09 = 0x24 ∧ crc8Step 0x24 0x29 = 0x4C

/-- R102: `compute(B, s, e)` depends only on `B[s:e]`, and is `compute(B[s:e], 0, e-s)`. -/
def Obligations.ChecksumDependsOnlyOnItsRange : Prop :=
  ∀ (b : List Byte) (s e : Nat), s ≤ e → e ≤ b.length →
    compute b s e = compute (slice b s e) 0 (e - s) ∧
    ∀ b' : List Byte, e ≤ b'.length → (∀ j, s ≤ j → j < e → b[j]? = b'[j]?) → compute b s e = compute b' s e

/-- R105: the byte step is eight bit steps, most significant bit first, and the bit step has the next-state equations the rule
lists. -/
def Obligations.ByteStepIsEightBitSteps : Prop :=
  (∀ c b : Byte, crc8Step c b = ([7, 6, 5, 4, 3, 2, 1, 0].map fun j => b.getLsbD j).foldl crc8Bit c) ∧
  (∀ (c : Byte) (d : Bool),
    let fb := Bool.xor (c.getLsbD 7) d
    let n := crc8Bit c d
    n.getLsbD 0 = fb ∧ n.getLsbD 1 = c.getLsbD 0 ∧ n.getLsbD 2 = c.getLsbD 1 ∧ n.getLsbD 3 = c.getLsbD 2 ∧
    n.getLsbD 4 = Bool.xor (c.getLsbD 3) fb ∧ n.getLsbD 5 = Bool.xor (c.getLsbD 4) fb ∧
    n.getLsbD 6 = c.getLsbD 5 ∧ n.getLsbD 7 = c.getLsbD 6) ∧
  crc8Bit 0xFF false = 0xCF

/-- R106: the step is a table look-up at `c XOR b`; the table is linear, has the unit values the rule lists, and satisfies its
exclusive-or equations. -/
def Obligations.ByteStepIsALinearTableLookup : Prop :=
  (∀ c b : Byte, crc8Step c b = crcTable (c ^^^ b)) ∧
  (∀ x y : Byte, crcTable (x ^^^ y) = crcTable x ^^^ crcTable y) ∧
  crcTable 0 = 0 ∧
  [0x01, 0x02, 0x04, 0x08, 0x10, 0x20, 0x40, 0x80].map crcTable = [0x31, 0x62, 0xC4, 0xB9, 0x43, 0x86, 0x3D, 0x7A] ∧
  (∀ x : Byte,
    let bit := fun j => x.getLsbD j
    let y := crcTable x
    y.getLsbD 0 = (bit 6 ^^ bit 4 ^^ bit 3 ^^ bit 0) ∧
    y.getLsbD 1 = (bit 7 ^^ bit 5 ^^ bit 4 ^^ bit 1) ∧
    y.getLsbD 2 = (bit 6 ^^ bit 5 ^^ bit 2) ∧
    y.getLsbD 3 = (bit 7 ^^ bit 6 ^^ bit 3) ∧
    y.getLsbD 4 = (bit 7 ^^ bit 6 ^^ bit 3 ^^ bit 0) ∧
    y.getLsbD 5 = (bit 7 ^^ bit 6 ^^ bit 3 ^^ bit 1 ^^ bit 0) ∧
    y.getLsbD 6 = (bit 7 ^^ bit 4 ^^ bit 2 ^^ bit 1) ∧
    y.getLsbD 7 = (bit 5 ^^ bit 3 ^^ bit 2))

/-- R109 item 1: the checksum is affine over exclusive or. -/
def Obligations.ChecksumIsAffine : Prop :=
  ∀ (c1 c2 : Byte) (b1 b2 : List Byte), b1.length = b2.length →
    crc8From (c1 ^^^ c2) (List.zipWith (fun x y => x ^^^ y) b1 b2) = crc8From c1 b1 ^^^ crc8From c2 b2

/-- R109 item 2: the step is a bijection in each argument, so changing exactly one byte of a range always changes its checksum. -/
def Obligations.ChangingOneByteChangesTheChecksum : Prop :=
  (∀ b : Byte, Function.Bijective fun c => crc8Step c b) ∧
  (∀ c : Byte, Function.Bijective fun b => crc8Step c b) ∧
  (∀ (c : Byte) (before rest : List Byte) (x y : Byte), x ≠ y →
    crc8From c (before ++ x :: rest) ≠ crc8From c (before ++ y :: rest))

/-- R109 item 3: the residue. A range with a trailing byte has checksum zero exactly when that byte is its checksum. -/
def Obligations.ResidueIsZeroExactlyForAValidRange : Prop :=
  ∀ (b : List Byte) (k : Byte), computeDoc (b ++ [k]) 0 (b.length + 1) = 0 ↔ k.toNat = computeDoc b 0 b.length

/-- R109 items 4 and 5: on the two-byte and the eight-byte range with its checksum byte, every pattern of one, two or three
flipped bits is detected. -/
def Obligations.UpToThreeFlippedBitsAreDetected : Prop :=
  ∀ (n : Nat), n ∈ [2, 8] → ∀ b : List Byte, b.length = n + 1 → frameValid [⟨0, n, n⟩] b = true →
    ∀ flips : List Nat, flips.Nodup → (∀ j ∈ flips, j < 8 * (n + 1)) → 1 ≤ flips.length → flips.length ≤ 3 →
      frameValid [⟨0, n, n⟩] (flips.foldl flipBit b) = false

/-- R109 item 4: every error pattern with an odd number of flipped bits is detected on the two-byte range with its checksum
byte. -/
def Obligations.OddErrorPatternsAreDetected : Prop :=
  ∀ d0 d1 k p0 p1 p2 : Byte, frameValid [⟨0, 2, 2⟩] [d0, d1, k] = true → weight [p0, p1, p2] % 2 = 1 →
    frameValid [⟨0, 2, 2⟩] [d0 ^^^ p0, d1 ^^^ p1, k ^^^ p2] = false

/-- R109 item 4: every burst confined to eight consecutive bits is detected on the two-byte range with its checksum byte; the
generator itself, four flipped bits spanning nine, is not. -/
def Obligations.ShortBurstsAreDetectedAndTheGeneratorIsNot : Prop :=
  (∀ (d0 d1 k q : Byte) (sh : Nat), frameValid [⟨0, 2, 2⟩] [d0, d1, k] = true → q ≠ 0 → sh ≤ 16 →
    let e : BitVec 24 := q.setWidth 24 <<< sh
    frameValid [⟨0, 2, 2⟩] [d0 ^^^ e.extractLsb' 16 8, d1 ^^^ e.extractLsb' 8 8, k ^^^ e.extractLsb' 0 8] = false) ∧
  (∀ d0 d1 k : Byte, frameValid [⟨0, 2, 2⟩] [d0, d1, k] = true →
    frameValid [⟨0, 2, 2⟩] [d0, d1 ^^^ 0x01, k ^^^ 0x31] = true)

/-- R109 item 4: exactly 80 of the patterns of four flipped bits are not detected on the two-byte range with its checksum byte,
whatever the data. -/
def Obligations.ExactlyEightyFourBitPatternsEscape : Prop :=
  ∀ d0 d1 k : Byte, frameValid [⟨0, 2, 2⟩] [d0, d1, k] = true →
    ((List.range 24).sublistsLen 4).countP
      (fun flips => frameValid [⟨0, 2, 2⟩] (flips.foldl flipBit [d0, d1, k])) = 80

/-- R25, R33, R100: the engine's register `CRC` ends every computation holding the checksum, whatever it held before, and the
response registers are left alone (how much of the engine's inside is modelled: DEDUCED, notes/assumptions/13.md). -/
def Obligations.EngineRegisterHoldsTheChecksum : Prop :=
  ∀ (r : LocalRegs) (b : List Byte),
    (r.compute b).crc.map BitVec.toNat = some (computeDoc b 0 b.length) ∧
    (r.compute b).rlen = r.rlen ∧ (r.compute b).rb = r.rb

/-- R110, R111: the validator answers yes exactly when every triple's checksum matches, and the order in which the triples are
checked is not observable (the model checks them as listed and stops at the first failure: notes/assumptions/15.md). -/
def Obligations.ValidatorChecksEveryTripleInAnyOrder : Prop :=
  (∀ (r : LocalRegs) (ts : List Triple), (r.validate ts).1 = frameValid ts r.received) ∧
  (∀ (r : LocalRegs) (ts us : List Triple), ts.Perm us → (r.validate ts).1 = (r.validate us).1)

/-- R108: the corner cases of `compute`, for the machine's form and for the pseudocode: an empty range gives `0xFF`; one zero byte
and one `FF` byte; two zero bytes, two `FF` bytes, and the responses of all zero and of all `FF` bytes, which fail; the result lies
in `0 .. 255`; it depends on the bytes of the range and not on where the range starts. -/
def Obligations.ChecksumCornerCases : Prop :=
  (∀ (b : List Byte) (s : Nat), computeDoc b s s = 0xFF ∧ compute b s s = 0xFF) ∧
  [[0x00], [0xFF], [0x00, 0x00], [0xFF, 0xFF]].map (fun b => computeDoc b 0 b.length) = [0xAC, 0x00, 0x81, 0xAC] ∧
  [[0x00], [0xFF], [0x00, 0x00], [0xFF, 0xFF]].map crc8 = [0xAC, 0x00, 0x81, 0xAC] ∧
  (∀ i : Instr, (opRow i).kind = .wr →
    frameValid (opRow i).triples (List.replicate (opRow i).rdLen 0x00) = false ∧
    frameValid (opRow i).triples (List.replicate (opRow i).rdLen 0xFF) = false) ∧
  (∀ (b : List Byte) (s e : Nat), computeDoc b s e ≤ 255) ∧
  (∀ (b b' : List Byte) (s e s' e' : Nat), slice b s e = slice b' s' e' →
    computeDoc b s e = computeDoc b' s' e' ∧ compute b s e = compute b' s' e')

/-! ## The operations, each by its own rule: it completes, with this next state -/

/-- R156, R157, R158: the three measurement operations. -/
def Obligations.MeasurementReadsRunByTheirRules : Prop :=
  ∀ (s : State), ∀ p ∈ [(Instr.measCs, ([0x2C, 0x1B] : List Byte)), (.measNcs, [0x24, 0x1D]), (.perFetch, [0xE0, 0x00])],
    match s.nextAnswer with
    | .fail e => exec p.1 s = .next (s.after (.wr s.addr p.2 6 (.fail e)) (transportRecord e))
    | .success v =>
      let rb := [v.b0, v.b1, v.b2, v.b3, v.b4, v.b5]
      exec p.1 s = .next (s.after (.wr s.addr p.2 6 (.bytes rb))
        (if computeDoc rb 0 2 = v.b2.toNat ∧ computeDoc rb 3 5 = v.b5.toNat then
          successRecord
            { tRaw := some (BitVec.ofNat 16 (v.b0.toNat * 256 + v.b1.toNat))
              rhRaw := some (BitVec.ofNat 16 (v.b3.toNat * 256 + v.b4.toNat))
              id := none, reg := none }
        else checksumRecord))

/-- R161: the identification read. -/
def Obligations.IdentificationReadRunsByItsRule : Prop :=
  ∀ s : State,
    match s.nextAnswer with
    | .fail e => exec .idRead s = .next (s.after (.wr s.addr [0x70, 0x29] 9 (.fail e)) (transportRecord e))
    | .success v =>
      let rb := [v.b0, v.b1, v.b2, v.b3, v.b4, v.b5, v.b6, v.b7, v.b8]
      exec .idRead s = .next (s.after (.wr s.addr [0x70, 0x29] 9 (.bytes rb))
        (if computeDoc rb 0 8 = v.b8.toNat then
          successRecord { tRaw := none, rhRaw := none, id := some v, reg := none }
        else checksumRecord))

/-- R162, R163: the two status-register reads. -/
def Obligations.StatusReadsRunByTheirRules : Prop :=
  ∀ s : State,
    match s.nextAnswer with
    | .fail e =>
      exec .reg1Read s = .next (s.after (.wr s.addr [0xF3, 0x2D] 3 (.fail e)) (transportRecord e)) ∧
      exec .reg2Read s = .next (s.after (.wr s.addr [0xF3, 0x2D] 3 (.fail e)) (transportRecord e))
    | .success v =>
      let rb := [v.b0, v.b1, v.b2]
      let o := fun b : Byte =>
        if computeDoc rb 0 2 = v.b2.toNat then
          successRecord { tRaw := none, rhRaw := none, id := none, reg := some b }
        else checksumRecord
      exec .reg1Read s = .next (s.after (.wr s.addr [0xF3, 0x2D] 3 (.bytes rb)) (o v.b0)) ∧
      exec .reg2Read s = .next (s.after (.wr s.addr [0xF3, 0x2D] 3 (.bytes rb)) (o v.b1))

/-- R154, R159, R160, R164, R165: the four write-only commands to `ADDR`. -/
def Obligations.WriteOnlyCommandsRunByTheirRules : Prop :=
  ∀ (s : State), ∀ p ∈ [(Instr.perStart, ([0x20, 0x1E] : List Byte)), (.perEnd, [0x30, 0x93]), (.reg1Clr, [0x30, 0x41]),
      (.sReset, [0x30, 0xA2])],
    match s.nextAnswer with
    | .fail e => exec p.1 s = .next (s.after (.w s.addr p.2 (.fail e)) (transportRecord e))
    | .success _ =>
      exec p.1 s = .next (s.after (.w s.addr p.2 .done)
        (successRecord { tRaw := none, rhRaw := none, id := none, reg := none }))

/-- R166: the general-call reset, for every value of the two open parameters. -/
def Obligations.GeneralCallResetRunsByItsRule : Prop :=
  ∀ s : State,
    match s.nextAnswer with
    | .fail e =>
      exec .gcReset s =
        .next (s.after (.w Config.gcAddress [Config.gcResetByte] (.fail e)) (transportRecord e))
    | .success _ =>
      exec .gcReset s = .next (s.after (.w Config.gcAddress [Config.gcResetByte] .done)
        (successRecord { tRaw := none, rhRaw := none, id := none, reg := none }))

/-! ## What holds of every operation -/

/-- R23: no operation changes `ADDR`, on success and on both failures. -/
def Obligations.NoOperationChangesAddr : Prop :=
  ∀ (i : Instr) (s : State), ∃ t, exec i s = .next t ∧ t.addr = s.addr

/-- R152: the frame of every operation. One event and one outcome record are appended, one answer is consumed, the sequencer is
idle; `ADDR`, the caller's other requests, the earlier events and records and the CRC port's replies are as before. R152 gives the
event, the record and `ADDR`; that the answers are a list with a counter beside it, and how an operation moves them on, is the
model's choice (DESIGN CHOICE, notes/assumptions/2.md). -/
def Obligations.OperationsLeaveEverythingElseUnchanged : Prop :=
  ∀ (i : Instr) (s t : State), exec i s = .next t →
    t.addr = s.addr ∧ t.calls = s.calls ∧ t.crcReplies = s.crcReplies ∧ t.sequencer = .idle ∧
    t.answers = s.answers.tail ∧ t.txCount = s.txCount + 1 ∧
    (∃ ev, t.history = s.history ++ [ev]) ∧ (∃ o, t.outcomes = s.outcomes ++ [o])

/-- R151, R29, R189: every operation ends, in exactly one of the three kinds, with a record in which exactly the fields of its
kind have a value. -/
def Obligations.EveryOperationEndsInOneLegalOutcome : Prop :=
  ∀ (i : Instr) (s : State), ∃ ev o, exec i s = .next (s.after ev o) ∧ o.legal = true

/-- R153: what the outcome record carries. On success, `Success` and exactly the fields of the operation's row, decoded from the
response; on a checksum failure, `ChecksumError` and nothing else; on a transport failure, the error and nothing else. -/
def Obligations.RecordsCarryExactlyTheFieldsOfTheirOperation : Prop :=
  ∀ (i : Instr) (s : State), ∃ ev o, exec i s = .next (s.after ev o) ∧
    (o.kind = .checksumError → o = checksumRecord) ∧
    (o.kind = .transportError → ∃ e, o = transportRecord e) ∧
    (o.kind = .ok →
      (∃ v, s.nextAnswer = .success v ∧ o = successRecord (fieldsOwed i (v.toList.take (opRow i).rdLen))) ∧
      (o.fields.tRaw.isSome ↔ i ∈ [Instr.measCs, .measNcs, .perFetch]) ∧
      (o.fields.rhRaw.isSome ↔ i ∈ [Instr.measCs, .measNcs, .perFetch]) ∧
      (o.fields.id.isSome ↔ i = .idRead) ∧
      (o.fields.reg.isSome ↔ i ∈ [Instr.reg1Read, .reg2Read]))

/-- R181: `ChecksumError` is raised exactly when the transaction succeeded and a protected triple does not match; it carries no
data. -/
def Obligations.ChecksumErrorExactlyOnAMismatch : Prop :=
  ∀ (i : Instr) (s : State), ∃ ev o, exec i s = .next (s.after ev o) ∧
    (o.kind = .checksumError ↔
      ∃ v, s.nextAnswer = .success v ∧ ∃ t ∈ (opRow i).triples,
        ((v.toList.take (opRow i).rdLen)[t.k]?).map BitVec.toNat ≠
          some (computeDoc (v.toList.take (opRow i).rdLen) t.s t.e)) ∧
    (o.kind = .checksumError → o = checksumRecord)

/-- R182, R186: `TransportError` is raised exactly when the bus primitive fails, with the collaborator's error unchanged, and
then nothing is validated or decoded. -/
def Obligations.TransportErrorExactlyOnAFailedTransaction : Prop :=
  ∀ (i : Instr) (s : State), ∃ ev o, exec i s = .next (s.after ev o) ∧
    (o.kind = .transportError ↔ ∃ e, s.nextAnswer = .fail e) ∧
    (∀ e, s.nextAnswer = .fail e → o = transportRecord e)

/-- R155: the outcome and the transaction are a function of the operation, `ADDR`, the parameters and the one answer, and of
nothing else. -/
def Obligations.OutcomeDependsOnlyOnAddrAndTheAnswer : Prop :=
  ∀ (i : Instr) (s s' : State), s.addr = s'.addr → s.nextAnswer = s'.nextAnswer →
    ∃ ev o, exec i s = .next (s.after ev o) ∧ exec i s' = .next (s'.after ev o)

/-- R113: flipping one, two or three bits of one protected range and its checksum byte makes each measurement operation fail with
`ChecksumError`. -/
def Obligations.CorruptedMeasurementsFailWithChecksumError : Prop :=
  ∀ i ∈ [Instr.measCs, .measNcs, .perFetch], ∀ (s : State) (v w : Bytes9) (flips : List Nat),
    frameValid measTriples (v.toList.take 6) = true →
    flips.Nodup → 1 ≤ flips.length → flips.length ≤ 3 →
    ((∀ j ∈ flips, j < 24) ∨ (∀ j ∈ flips, 24 ≤ j ∧ j < 48)) →
    w.toList.take 6 = flips.foldl flipBit (v.toList.take 6) → s.nextAnswer = .success w →
      ∃ ev, exec i s = .next (s.after ev checksumRecord)

/-! ## Requests and steps -/

/-- A step runs the requested operation (R27, R55): with the sequencer idle and a selector that names an operation first among
the caller's requests, the step is that operation's meaning on the state whose requests are the rest. The list of requests is the
model's choice (DESIGN CHOICE, notes/assumptions/5.md). -/
def Obligations.StepRunsTheRequestedOperation : Prop :=
  ∀ (s : State) (sel : BitVec 4) (i : Instr) (rest : List Request),
    s.sequencer = .idle → s.calls = .op sel :: rest → decodeSelector sel = .ok i →
      step s = exec i { s with calls := rest }

/-- With a word of the opcode table (R87) loaded as the caller's next request, the step runs the operation the decoder reads from
the word, on the state it was loaded into. R87 gives the words; the load and the list it fills are the model's choice (DESIGN
CHOICE, notes/assumptions/5.md), and so is the operation read from the one word of the two status reads, `REG1.READ` (DESIGN
CHOICE, notes/assumptions/8.md): `REG2.READ` is requested by its selector, in `StepRunsTheRequestedOperation`. -/
def Obligations.StepRunsTheOperationOfATableWord : Prop :=
  ∀ (s : State) (nbits w : Nat) (i : Instr), s.sequencer = .idle → decodeTableWord nbits w = some i →
    step (s.withFetchWord nbits w) = exec i s

/-- R51, R212: no transaction without a request. A step appends at most one event, and only if the caller's next request is an
operation; without a request an idle block stays as it is (the latter the model's choice, notes/assumptions/5.md). -/
def Obligations.NoTransactionWithoutARequest : Prop :=
  (∀ s t : State, step s = .next t →
    (t.history = s.history ∧ t.outcomes = s.outcomes) ∨
    (∃ sel rest ev o, s.calls = .op sel :: rest ∧ t.calls = rest ∧ t.history = s.history ++ [ev] ∧
      t.outcomes = s.outcomes ++ [o])) ∧
  (∀ s : State, s.sequencer = .idle → s.calls = [] → step s = .next s)

/-- R184: the three situations the model refuses, and no other: a selector in `11 .. 15`, a request while an operation is in
progress, a direct `compute` outside its contract. A refusal makes no next state, so no transaction and no outcome record. -/
def Obligations.ExactlyThreeSituationsAreRefused : Prop :=
  ∀ (s : State) (r : Refusal), step s = .refused r ↔
    (∃ sel rest, s.sequencer = .idle ∧ s.calls = .op sel :: rest ∧ 11 ≤ sel.toNat ∧ r = .unknownSelector sel) ∨
    (∃ regs req rest, s.sequencer = .running regs ∧ s.calls = req :: rest ∧ r = .requestWhileBusy) ∨
    (∃ buffer start stop rest, s.sequencer = .idle ∧ s.calls = .crc buffer start stop :: rest ∧
      ¬ (0 ≤ start ∧ start ≤ stop ∧ stop ≤ (buffer.length : Int)) ∧ r = .crcRangeOutsideContract)

/-- U20, R151: a step faults exactly when it is asked of a state inside an operation with no further request (the model's choice
for a collaborator that never answers, notes/assumptions/6.md); an idle block never faults. -/
def Obligations.StepFaultsExactlyInsideAnUnfinishedOperation : Prop :=
  ∀ (s : State) (f : Fault), step s = .fault f ↔ (∃ regs, s.sequencer = .running regs) ∧ s.calls = []

/-- R195: every operation and the CRC port are available at all times. An idle block serves every selector in `0 .. 10`, and every
checksum request inside the contract, whatever came before. -/
def Obligations.EveryRequestIsServedAtAllTimes : Prop :=
  ∀ (s : State) (rest : List Request), s.sequencer = .idle →
    (∀ sel : BitVec 4, sel.toNat ≤ 10 → s.calls = .op sel :: rest → ∃ t, step s = .next t ∧ t.calls = rest) ∧
    (∀ (buffer : List Byte) (start stop : Int), 0 ≤ start → start ≤ stop → stop ≤ (buffer.length : Int) →
      s.calls = .crc buffer start stop :: rest → ∃ t, step s = .next t ∧ t.calls = rest)

/-- R114, R100: inside the contract the CRC port replies the checksum of the range, with no transaction, no outcome record and
nothing else changed. -/
def Obligations.CrcPortRepliesTheChecksumOfTheRange : Prop :=
  ∀ (s : State) (buffer : List Byte) (start stop : Int) (rest : List Request),
    s.sequencer = .idle → s.calls = .crc buffer start stop :: rest →
    0 ≤ start → start ≤ stop → stop ≤ (buffer.length : Int) →
      ∃ c : Byte, c.toNat = computeDoc buffer start.toNat stop.toNat ∧
        step s = .next { s with calls := rest, crcReplies := s.crcReplies ++ [c] }

/-- R59, R163: two status reads requested one after the other perform two transactions, and the second answers from its own
frame. -/
def Obligations.StatusReadsBackToBackUseTwoTransactions : Prop :=
  ∀ (s : State) (v w : Bytes9) (rest : List Answer),
    s.sequencer = .idle → s.calls = [.op 6, .op 7] → s.answers = .success v :: .success w :: rest →
      ∃ o1 o2 t, Host.Core.run Sys2Proof.core 2 s = .next t ∧
        t.history = s.history ++
          [.wr s.addr [0xF3, 0x2D] 3 (.bytes [v.b0, v.b1, v.b2]), .wr s.addr [0xF3, 0x2D] 3 (.bytes [w.b0, w.b1, w.b2])] ∧
        t.outcomes = s.outcomes ++ [o1, o2] ∧
        o1 = recordOwed .reg1Read [v.b0, v.b1, v.b2] ∧ o2 = recordOwed .reg2Read [w.b0, w.b1, w.b2]

/-- R183: a step adds no outcome record whose status is other than `Success` or `ChecksumError`. -/
def Obligations.OnlySuccessAndChecksumErrorAreReported : Prop :=
  ∀ s t : State, step s = .next t → ∀ o ∈ t.outcomes, o ∈ s.outcomes ∨
    ∀ c, o.status = some c → c = .success ∨ c = .checksumError

/-! ## Invariants and runs -/

/-- R210, R32: after reset `ADDR` holds `BUS_ADDRESS`, the sequencer is idle, no operation-local register has a value, the bus
history is empty and no outcome record exists; the invariant of the block holds. -/
def Obligations.ResetIsSound : Prop :=
  State.reset.sound ∧ State.reset.sequencer = .idle ∧
  State.reset.regs = { rlen := none, rb := [], crc := none, cur := none } ∧ State.reset.addr = Config.busAddress ∧
  State.reset.history = [] ∧ State.reset.outcomes = []

/-- R55, R152, R150: from every sound state, a step gives a sound state: the bus history accounts, event by event, for every
outcome ever handed out, at the same `ADDR`. -/
def Obligations.EveryStepKeepsTheAccount : Prop :=
  ∀ s t : State, s.sound → step s = .next t → t.sound ∧ t.addr = s.addr

/-- R112: over any number of steps from a sound state, no temperature and no humidity is ever handed out unless a transaction of
the history returned a frame both of whose ranges match, and they are that frame's two fields. The all-zero frame of the rule's
example fails. -/
def Obligations.NoMeasurementIsReportedUnvalidated : Prop :=
  frameValid measTriples [0, 0, 0, 0, 0, 0] = false ∧
  ∀ (k : Nat) (s t : State), s.sound → Host.Core.run Sys2Proof.core k s = .next t →
    ∀ o ∈ t.outcomes, ∀ x : Word, (o.fields.tRaw = some x ∨ o.fields.rhRaw = some x) →
      ∃ out b0 b1 b2 b3 b4 b5, (Event.wr s.addr out 6 (.bytes [b0, b1, b2, b3, b4, b5])) ∈ t.history ∧
        computeDoc [b0, b1] 0 2 = b2.toNat ∧ computeDoc [b3, b4] 0 2 = b5.toNat ∧
        o = successRecord { tRaw := some (be16 b0 b1), rhRaw := some (be16 b3 b4), id := none, reg := none }

/-- R55, R225: a run of requests answers each with one outcome, in order. After as many steps as there are requests, the history
has grown by exactly one event per request, the n-th the transaction of the n-th operation, and so have the outcomes. -/
def Obligations.TransactionsFollowTheOrderOfTheRequests : Prop :=
  ∀ (ops : List Instr) (later : List Request) (s : State),
    s.sequencer = .idle → s.calls = ops.map (fun i => Request.op (selector i)) ++ later →
      ∃ (t : State) (events : List Event) (records : List OutcomeRecord),
        Host.Core.run Sys2Proof.core ops.length s = .next t ∧
        t.history = s.history ++ events ∧ t.outcomes = s.outcomes ++ records ∧
        List.Forall₂ (fun i p => accountsFor s.addr i p.1 p.2) ops (events.zip records) ∧
        events.length = ops.length ∧ records.length = ops.length ∧
        t.calls = later ∧ t.sequencer = .idle ∧ t.addr = s.addr ∧ t.crcReplies = s.crcReplies

/-- R28, R191: no outcome of one operation has an effect on the next. Whatever two different operations a caller requested first,
and whatever they were answered, a following operation with the same answer performs the same transaction with the same outcome. -/
def Obligations.EarlierOperationsLeaveNoTrace : Prop :=
  ∀ (s : State) (first other i : Instr) (a a' b : Answer) (rest : List Answer),
    ∃ (ev : Event) (o : OutcomeRecord) (t t' u u' : State),
      exec first { s with answers := a :: b :: rest } = .next t ∧ exec i t = .next u ∧
      exec other { s with answers := a' :: b :: rest } = .next t' ∧ exec i t' = .next u' ∧
      u = t.after ev o ∧ u' = t'.after ev o
end

