-- ==== Sys2Proof/Laws/State.lean ====
section
/-! SUPPORT. One lemma per field of State per update, each true by rfl, so that no later proof unfolds a record update. -/

namespace Sys2Proof.Machine

/-! ## `State.record` -/

@[simp] theorem State.record_addr (s : State) (ev : Event) : (s.record ev).addr = s.addr := rfl
@[simp] theorem State.record_sequencer (s : State) (ev : Event) : (s.record ev).sequencer = s.sequencer := rfl
@[simp] theorem State.record_calls (s : State) (ev : Event) : (s.record ev).calls = s.calls := rfl
@[simp] theorem State.record_answers (s : State) (ev : Event) : (s.record ev).answers = s.answers.tail := rfl
@[simp] theorem State.record_txCount (s : State) (ev : Event) : (s.record ev).txCount = s.txCount + 1 := rfl
@[simp] theorem State.record_history (s : State) (ev : Event) : (s.record ev).history = s.history ++ [ev] := rfl
@[simp] theorem State.record_outcomes (s : State) (ev : Event) : (s.record ev).outcomes = s.outcomes := rfl
@[simp] theorem State.record_crcReplies (s : State) (ev : Event) : (s.record ev).crcReplies = s.crcReplies := rfl

/-! ## `State.accept` -/

@[simp] theorem State.accept_addr (s : State) : s.accept.addr = s.addr := rfl
@[simp] theorem State.accept_sequencer (s : State) : s.accept.sequencer = .running LocalRegs.blank := rfl
@[simp] theorem State.accept_calls (s : State) : s.accept.calls = s.calls := rfl
@[simp] theorem State.accept_answers (s : State) : s.accept.answers = s.answers := rfl
@[simp] theorem State.accept_txCount (s : State) : s.accept.txCount = s.txCount := rfl
@[simp] theorem State.accept_history (s : State) : s.accept.history = s.history := rfl
@[simp] theorem State.accept_outcomes (s : State) : s.accept.outcomes = s.outcomes := rfl
@[simp] theorem State.accept_crcReplies (s : State) : s.accept.crcReplies = s.crcReplies := rfl

/-! ## `State.withRegs` -/

@[simp] theorem State.withRegs_addr (s : State) (r : LocalRegs) : (s.withRegs r).addr = s.addr := rfl
@[simp] theorem State.withRegs_sequencer (s : State) (r : LocalRegs) : (s.withRegs r).sequencer = .running r := rfl
@[simp] theorem State.withRegs_calls (s : State) (r : LocalRegs) : (s.withRegs r).calls = s.calls := rfl
@[simp] theorem State.withRegs_answers (s : State) (r : LocalRegs) : (s.withRegs r).answers = s.answers := rfl
@[simp] theorem State.withRegs_txCount (s : State) (r : LocalRegs) : (s.withRegs r).txCount = s.txCount := rfl
@[simp] theorem State.withRegs_history (s : State) (r : LocalRegs) : (s.withRegs r).history = s.history := rfl
@[simp] theorem State.withRegs_outcomes (s : State) (r : LocalRegs) : (s.withRegs r).outcomes = s.outcomes := rfl
@[simp] theorem State.withRegs_crcReplies (s : State) (r : LocalRegs) : (s.withRegs r).crcReplies = s.crcReplies := rfl

/-! ## `State.finish` -/

@[simp] theorem State.finish_addr (s : State) (o : OutcomeRecord) : (s.finish o).addr = s.addr := rfl
@[simp] theorem State.finish_sequencer (s : State) (o : OutcomeRecord) : (s.finish o).sequencer = .idle := rfl
@[simp] theorem State.finish_calls (s : State) (o : OutcomeRecord) : (s.finish o).calls = s.calls := rfl
@[simp] theorem State.finish_answers (s : State) (o : OutcomeRecord) : (s.finish o).answers = s.answers := rfl
@[simp] theorem State.finish_txCount (s : State) (o : OutcomeRecord) : (s.finish o).txCount = s.txCount := rfl
@[simp] theorem State.finish_history (s : State) (o : OutcomeRecord) : (s.finish o).history = s.history := rfl
@[simp] theorem State.finish_outcomes (s : State) (o : OutcomeRecord) : (s.finish o).outcomes = s.outcomes ++ [o] := rfl
@[simp] theorem State.finish_crcReplies (s : State) (o : OutcomeRecord) : (s.finish o).crcReplies = s.crcReplies := rfl

/-! ## `State.replyCrc` -/

@[simp] theorem State.replyCrc_addr (s : State) (b : Byte) : (s.replyCrc b).addr = s.addr := rfl
@[simp] theorem State.replyCrc_sequencer (s : State) (b : Byte) : (s.replyCrc b).sequencer = s.sequencer := rfl
@[simp] theorem State.replyCrc_calls (s : State) (b : Byte) : (s.replyCrc b).calls = s.calls := rfl
@[simp] theorem State.replyCrc_answers (s : State) (b : Byte) : (s.replyCrc b).answers = s.answers := rfl
@[simp] theorem State.replyCrc_txCount (s : State) (b : Byte) : (s.replyCrc b).txCount = s.txCount := rfl
@[simp] theorem State.replyCrc_history (s : State) (b : Byte) : (s.replyCrc b).history = s.history := rfl
@[simp] theorem State.replyCrc_outcomes (s : State) (b : Byte) : (s.replyCrc b).outcomes = s.outcomes := rfl
@[simp] theorem State.replyCrc_crcReplies (s : State) (b : Byte) : (s.replyCrc b).crcReplies = s.crcReplies ++ [b] := rfl

/-! ## `State.withCalls` -/

@[simp] theorem State.withCalls_addr (s : State) (calls : List Request) : (s.withCalls calls).addr = s.addr := rfl
@[simp] theorem State.withCalls_sequencer (s : State) (calls : List Request) : (s.withCalls calls).sequencer = s.sequencer := rfl
@[simp] theorem State.withCalls_calls (s : State) (calls : List Request) : (s.withCalls calls).calls = calls := rfl
@[simp] theorem State.withCalls_answers (s : State) (calls : List Request) : (s.withCalls calls).answers = s.answers := rfl
@[simp] theorem State.withCalls_txCount (s : State) (calls : List Request) : (s.withCalls calls).txCount = s.txCount := rfl
@[simp] theorem State.withCalls_history (s : State) (calls : List Request) : (s.withCalls calls).history = s.history := rfl
@[simp] theorem State.withCalls_outcomes (s : State) (calls : List Request) : (s.withCalls calls).outcomes = s.outcomes := rfl
@[simp] theorem State.withCalls_crcReplies (s : State) (calls : List Request) : (s.withCalls calls).crcReplies = s.crcReplies := rfl

/-! ## `State.after` -/

@[simp] theorem State.after_addr (s : State) (ev : Event) (o : OutcomeRecord) : (s.after ev o).addr = s.addr := rfl
@[simp] theorem State.after_sequencer (s : State) (ev : Event) (o : OutcomeRecord) : (s.after ev o).sequencer = .idle := rfl
@[simp] theorem State.after_calls (s : State) (ev : Event) (o : OutcomeRecord) : (s.after ev o).calls = s.calls := rfl
@[simp] theorem State.after_answers (s : State) (ev : Event) (o : OutcomeRecord) : (s.after ev o).answers = s.answers.tail := rfl
@[simp] theorem State.after_txCount (s : State) (ev : Event) (o : OutcomeRecord) : (s.after ev o).txCount = s.txCount + 1 := rfl
@[simp] theorem State.after_history (s : State) (ev : Event) (o : OutcomeRecord) : (s.after ev o).history = s.history ++ [ev] := rfl
@[simp] theorem State.after_outcomes (s : State) (ev : Event) (o : OutcomeRecord) : (s.after ev o).outcomes = s.outcomes ++ [o] := rfl
@[simp] theorem State.after_crcReplies (s : State) (ev : Event) (o : OutcomeRecord) : (s.after ev o).crcReplies = s.crcReplies := rfl

end Sys2Proof.Machine
end

