-- ==== Sys2Proof/Laws/Checksum.lean ====
section
/-! SUPPORT. The checksum engine's registers end a computation holding `crc8` of its bytes, and the response registers are left
alone (spec/10_state.md R25; spec/40_checksum.md R104, R105). -/

namespace Sys2Proof.Machine

theorem shiftLeft_one_xor (x y : Byte) : (x ^^^ y) <<< 1 = (x <<< 1) ^^^ (y <<< 1) := by
  apply BitVec.eq_of_getLsbD_eq
  intro i hi
  simp only [BitVec.getLsbD_shiftLeft, BitVec.getLsbD_xor, hi, decide_true, Bool.true_and]
  by_cases h : i < 1 <;> simp [h]

/-- One clock moves the exclusive or of `CRC` and `CUR` as one shift of the byte step does (R104, point 3). -/
theorem engineClock_xor (p : Byte × Byte) :
    (engineClock p).1 ^^^ (engineClock p).2 = crcShift (p.1 ^^^ p.2) := by
  have hbit : (p.1 ^^^ p.2).getLsbD 7 = Bool.xor (p.1.getLsbD 7) (p.2.getLsbD 7) := by simp
  simp only [engineClock, crc8Bit, crcShift, hbit, shiftLeft_one_xor]
  split <;> ac_rfl

theorem engineClock_iterate_xor (n : Nat) (p : Byte × Byte) :
    (Nat.iterate engineClock n p).1 ^^^ (Nat.iterate engineClock n p).2 = Nat.iterate crcShift n (p.1 ^^^ p.2) := by
  induction n generalizing p with
  | zero => rfl
  | succ n ih => simp only [Function.iterate_succ_apply, ih, engineClock_xor]

/-- After eight clocks `CUR` is empty and `CRC` holds the byte step's result (R104, point 4). -/
theorem engineClock_eight (c b : Byte) : Nat.iterate engineClock 8 (c, b) = (crc8Step c b, 0) := by
  have hcur : (Nat.iterate engineClock 8 (c, b)).2 = 0 := by
    show b <<< 1 <<< 1 <<< 1 <<< 1 <<< 1 <<< 1 <<< 1 <<< 1 = 0
    simp only [← BitVec.shiftLeft_add]
    apply BitVec.eq_of_getLsbD_eq
    intro i hi
    simp
  have hx := engineClock_iterate_xor 8 (c, b)
  rw [hcur] at hx
  exact Prod.ext (by simpa [crc8Step] using hx) hcur

@[simp] theorem LocalRegs.absorb_some (r : LocalRegs) (c b : Byte) (h : r.crc = some c) :
    r.absorb b = { r with crc := some (crc8Step c b), cur := some 0 } := by
  simp [LocalRegs.absorb, h, engineClock_eight]

theorem LocalRegs.foldl_absorb (bytes : List Byte) (r : LocalRegs) (c : Byte) (h : r.crc = some c) :
    bytes.foldl LocalRegs.absorb r =
      { r with crc := some (crc8From c bytes), cur := if bytes = [] then r.cur else some 0 } := by
  induction bytes generalizing r c with
  | nil => cases r; simp_all [crc8From]
  | cons b bytes ih =>
    rw [List.foldl_cons, r.absorb_some c b h, ih _ (crc8Step c b) rfl]
    simp [crc8From]

/-- What the engine's registers hold after a computation: `CRC` the checksum, `CUR` nothing of the byte it held (R25). -/
theorem LocalRegs.compute_eq (r : LocalRegs) (bytes : List Byte) :
    r.compute bytes = { r with crc := some (crc8 bytes), cur := if bytes = [] then none else some 0 } := by
  rw [LocalRegs.compute, LocalRegs.foldl_absorb bytes { r with crc := some crcInit, cur := none } crcInit rfl, crc8]

@[simp] theorem LocalRegs.compute_crc (r : LocalRegs) (bytes : List Byte) :
    (r.compute bytes).crc = some (crc8 bytes) := by simp [LocalRegs.compute_eq]

@[simp] theorem LocalRegs.compute_rlen (r : LocalRegs) (bytes : List Byte) : (r.compute bytes).rlen = r.rlen := by
  simp [LocalRegs.compute_eq]

@[simp] theorem LocalRegs.compute_rb (r : LocalRegs) (bytes : List Byte) : (r.compute bytes).rb = r.rb := by
  simp [LocalRegs.compute_eq]

@[simp] theorem LocalRegs.compute_received (r : LocalRegs) (bytes : List Byte) :
    (r.compute bytes).received = r.received := by simp [LocalRegs.received]

end Sys2Proof.Machine
end

