-- ==== Sys2Proof/Laws/Decode.lean ====
section
/-! SUPPORT. The decoders read the operation table and nothing else: what they answer is said once, in the terms of its rows
(spec/30_encoding.md R81; spec/41_framer.md R126). -/

namespace Sys2Proof

@[simp] theorem Instr.mem_all (i : Instr) : i ∈ Instr.all := by cases i <;> decide

/-- The row found satisfies the test. -/
theorem firstRow_some {test : OpRow → Bool} {i : Instr} (h : firstRow test = some i) : test (opRow i) = true :=
  List.find?_some (p := fun i => test (opRow i)) h

/-- No row is found exactly when no operation's row satisfies the test. -/
theorem firstRow_eq_none {test : OpRow → Bool} : firstRow test = none ↔ ∀ i, test (opRow i) = false := by
  simp [firstRow, List.find?_eq_none]

/-- A selector that is read is the selector of the row read. -/
theorem decodeSelector_ok {sel : BitVec 4} {i : Instr} (h : decodeSelector sel = .ok i) : (opRow i).selector = sel := by
  unfold decodeSelector at h
  split at h
  next j hj => cases h; simpa using firstRow_some hj
  next => cases h

/-- A code that is read is the code of the row read. -/
theorem decodeCode_ok {code : Word} {i : Instr} (h : decodeCode code = .ok i) : (opRow i).code = some code := by
  unfold decodeCode at h
  split at h
  next j hj => cases h; simpa using firstRow_some hj
  next => cases h

/-- A selector that is not read is rejected by name. -/
theorem decodeSelector_error {sel : BitVec 4} {e : DecodeError} (h : decodeSelector sel = .error e) : e = .unknownSelector sel := by
  unfold decodeSelector at h
  split at h
  next => cases h
  next => cases h; rfl

/-- A selector is rejected exactly when it is in no row (R82). -/
theorem decodeSelector_error_iff {sel : BitVec 4} :
    decodeSelector sel = .error (.unknownSelector sel) ↔ ∀ i, (opRow i).selector ≠ sel := by
  unfold decodeSelector
  split
  next j hj => simpa using ⟨j, by simpa using firstRow_some hj⟩
  next hn => simpa [firstRow_eq_none] using hn

/-- A code that is not read is rejected by name. -/
theorem decodeCode_error {code : Word} {e : DecodeError} (h : decodeCode code = .error e) : e = .unknownCode code := by
  unfold decodeCode at h
  split at h
  next => cases h
  next => cases h; rfl

/-- A code is rejected exactly when it is in no row (R83). -/
theorem decodeCode_error_iff {code : Word} :
    decodeCode code = .error (.unknownCode code) ↔ ∀ i, (opRow i).code ≠ some code := by
  unfold decodeCode
  split
  next j hj => simpa using ⟨j, by simpa using firstRow_some hj⟩
  next hn => simpa [firstRow_eq_none] using hn

end Sys2Proof
end

