-- ==== Sys2Proof/Laws/Ops.lean ====
section
/-! SUPPORT. One specification lemma per shared operation: what the validator answers, what a decoder reads, and what `run(op)`
does for each answer of the oracle (spec/43_operations.md R150). -/

namespace Sys2Proof.Machine

/-! ## Registers and decoders -/

@[simp] theorem State.regs_withRegs (s : State) (r : LocalRegs) : (s.withRegs r).regs = r := rfl

@[simp] theorem State.regs_accept (s : State) : s.accept.regs = LocalRegs.blank := rfl

@[simp] theorem State.nextAnswer_accept (s : State) : s.accept.nextAnswer = s.nextAnswer := rfl

@[simp] theorem LocalRegs.received_load (r : LocalRegs) (n : Nat) (b : List Byte) (hn : n < 16) :
    (r.load n b).received = b.take n := by
  simp [LocalRegs.received, LocalRegs.load, Nat.mod_eq_of_lt hn]

/-- A decoder reads the response buffer and nothing else. -/
def readsOnlyRB (dec : LocalRegs → ResultFields) : Prop :=
  ∀ r r' : LocalRegs, r.received = r'.received → dec r = dec r'

theorem decodeMeas_readsOnlyRB : readsOnlyRB decodeMeas := by
  intro r r' h; simp [decodeMeas, LocalRegs.readField, LocalRegs.readRB, h]

theorem decodeId_readsOnlyRB : readsOnlyRB decodeId := by
  intro r r' h; simp [decodeId, h]

theorem decodeReg1_readsOnlyRB : readsOnlyRB decodeReg1 := by
  intro r r' h; simp [decodeReg1, LocalRegs.readRB, h]

theorem decodeReg2_readsOnlyRB : readsOnlyRB decodeReg2 := by
  intro r r' h; simp [decodeReg2, LocalRegs.readRB, h]

theorem decodeNothing_readsOnlyRB : readsOnlyRB decodeNothing := fun _ _ _ => rfl

/-- Whatever a row returns, its decoder reads the response buffer and nothing else. -/
theorem decodeResult_readsOnlyRB (f : ResultForm) : readsOnlyRB (decodeResult f) := by
  cases f
  · exact decodeNothing_readsOnlyRB
  · exact decodeMeas_readsOnlyRB
  · exact decodeId_readsOnlyRB
  · exact decodeReg1_readsOnlyRB
  · exact decodeReg2_readsOnlyRB

/-! ## The validator -/

/-- A byte sequence passes every triple (R110). -/
def passes (triples : List Triple) (b : List Byte) : Bool :=
  triples.all fun t => some (crc8 (slice b t.s t.e)) == b[t.k]?

@[simp] theorem LocalRegs.check_fst (r : LocalRegs) (t : Triple) :
    (r.check t).1 = (some (crc8 (slice r.received t.s t.e)) == r.received[t.k]?) := by
  simp [LocalRegs.check, LocalRegs.readRB]

@[simp] theorem LocalRegs.check_received (r : LocalRegs) (t : Triple) : (r.check t).2.received = r.received := by
  simp [LocalRegs.check]

/-- The validator answers whether every triple passes, and leaves the response buffer as it was (R110, R111). -/
theorem LocalRegs.validate_spec (triples : List Triple) (r : LocalRegs) :
    (r.validate triples).1 = passes triples r.received ∧ (r.validate triples).2.received = r.received := by
  induction triples generalizing r with
  | nil => simp [LocalRegs.validate, passes]
  | cons t ts ih =>
    have h1 := r.check_fst t
    have h2 := r.check_received t
    simp only [LocalRegs.validate]
    split
    next r' h =>
      rw [h] at h1 h2
      obtain ⟨ih1, ih2⟩ := ih r'
      simp only at h1 h2
      rw [ih1, ih2, h2]
      simp [passes, ← h1]
    next r' h =>
      rw [h] at h1 h2
      simp only at h1 h2
      simp [passes, ← h1, h2]

/-! ## The sequence every operation runs -/

/-- The record of a received frame of `n` bytes: decoded if it passes, a checksum failure if not (R112). -/
def recordOf (row : OpRow) (n : Nat) (b : List Byte) : OutcomeRecord :=
  if passes row.triples (b.take n) then okRecord (decodeResult row.result (LocalRegs.blank.load n b))
  else failureRecord .checksumError

theorem State.validateAndDecode_eq (s : State) (n : Nat) (hn : n < 16) (b : List Byte) (row : OpRow) :
    (s.withRegs (LocalRegs.blank.load n b)).validateAndDecode row = s.finish (recordOf row n b) := by
  obtain ⟨h1, h2⟩ := LocalRegs.validate_spec row.triples (LocalRegs.blank.load n b)
  rw [LocalRegs.received_load _ _ _ hn] at h1
  simp only [State.validateAndDecode, State.regs_withRegs]
  split
  next r h =>
    rw [h] at h1 h2
    simp only at h1
    rw [recordOf, ← h1, if_pos rfl, decodeResult_readsOnlyRB row.result r _ h2]
    rfl
  next r h =>
    rw [h] at h1
    simp only at h1
    rw [recordOf, ← h1]
    rfl

/-- The transaction of a request, for an answer (R44, R45). -/
def eventOf (req : BusReq) (a : Answer) : Event :=
  match req.kind with
  | .w => .w req.addr req.out (Answer.toWrite a)
  | .wr => .wr req.addr req.out req.n (Answer.toRead req.n a)

/-- The record of a request, for an answer (R150). -/
def outcomeOf (req : BusReq) (row : OpRow) : Answer → OutcomeRecord
  | .fail e => failureRecord (.transportError e)
  | .success v =>
    match req.kind with
    | .w => okRecord (decodeResult row.result LocalRegs.blank)
    | .wr => recordOf row req.n (v.toList.take req.n)

theorem framer_n_lt (i : Instr) (own : BusAddr) : (framer i own).n < 16 := by
  cases i <;> simp [framer, opRow, measRow, statusRow, writeRow]

/-- Everything `run(op)` does (R150, R152): one event, one record, nothing else. -/
theorem State.run_eq (s : State) (i : Instr) :
    s.run i = s.after (eventOf (framer i s.addr) s.nextAnswer) (outcomeOf (framer i s.addr) (opRow i) s.nextAnswer) := by
  have hn := framer_n_lt i s.addr
  generalize hreq : framer i s.addr = req at hn
  simp only [State.run, hreq]
  cases hk : req.kind with
  | w =>
    simp only [State.runWrite, State.busWrite, State.nextAnswer_accept, eventOf, outcomeOf, hk]
    cases s.nextAnswer <;> rfl
  | wr =>
    simp only [State.runRead, State.busWriteRead, State.nextAnswer_accept, eventOf, outcomeOf, hk]
    cases s.nextAnswer with
    | fail e => rfl
    | success v => exact State.validateAndDecode_eq _ _ hn _ _

/-! ## The meanings -/

theorem exec_eq_run (i : Instr) (s : State) : exec i s = .next (s.run i) := by cases i <;> rfl

/-- Everything an operation does, in one equation (R150 to R153). -/
theorem exec_eq_after (i : Instr) (s : State) :
    exec i s = .next (s.after (eventOf (framer i s.addr) s.nextAnswer)
      (outcomeOf (framer i s.addr) (opRow i) s.nextAnswer)) := by
  rw [exec_eq_run, State.run_eq]

/-! ## The step -/

/-- Everything a step that goes on can have done: an idle block without a request stays; a request of the caller port ran its
operation; a request of the CRC port got its byte. -/
theorem step_cases {s t : State} (h : step s = .next t) :
    s.sequencer = .idle ∧
      ((s.calls = [] ∧ t = s) ∨
       (∃ sel i rest, s.calls = .op sel :: rest ∧ decodeSelector sel = .ok i ∧ exec i (s.withCalls rest) = .next t) ∨
       (∃ buffer start stop rest, s.calls = .crc buffer start stop :: rest ∧ rangeOk buffer.length start stop = true ∧
         t = (s.withCalls rest).replyCrc (compute buffer start.toNat stop.toNat))) := by
  unfold step at h
  split at h
  next hi =>
    refine ⟨hi, ?_⟩
    unfold serveNext at h
    split at h
    next hc => exact .inl ⟨hc, by simpa using h.symm⟩
    next r rest hc =>
      cases r with
      | op sel =>
        simp only [serveRequest, serveOperation] at h
        split at h
        next i hs => exact .inr (.inl ⟨sel, i, rest, hc, hs, h⟩)
        next => cases h
      | crc buffer start stop =>
        simp only [serveRequest, serveCrc] at h
        split at h
        next hr => exact .inr (.inr ⟨buffer, start, stop, rest, hc, hr, by simpa using h.symm⟩)
        next => cases h
  next =>
    unfold stepWhileRunning at h
    split at h <;> cases h

end Sys2Proof.Machine
end

