-- ==== Sys2Proof/Laws/Run.lean ====
section
/-! SUPPORT. Runs of several steps, one step at a time, and the step of a requested operation. -/

namespace Sys2Proof.Machine

/-- A run whose first step goes on is the rest of the run from there. -/
theorem run_of_step_next {k : Nat} {s t : State} (h : step s = .next t) :
    Host.Core.run Sys2Proof.core (k + 1) s = Host.Core.run Sys2Proof.core k t := by
  have hs : Host.Core.step Sys2Proof.core s = .next t := h
  simp only [Host.Core.run, hs]

/-- A run that goes on for one more step went on at its first step. -/
theorem step_of_run_next {k : Nat} {s u : State} (h : Host.Core.run Sys2Proof.core (k + 1) s = .next u) :
    ∃ t, step s = .next t ∧ Host.Core.run Sys2Proof.core k t = .next u := by
  simp only [Host.Core.run] at h
  cases hs : Host.Core.step Sys2Proof.core s with
  | next t => rw [hs] at h; exact ⟨t, hs, h⟩
  | fault r => rw [hs] at h; cases h
  | refused r => rw [hs] at h; cases h

/-- An invariant that every step keeps holds along every run. -/
theorem run_keeps {inv : State → Prop} (hstep : ∀ s t, inv s → step s = .next t → inv t) :
    ∀ (k : Nat) {s t : State}, inv s → Host.Core.run Sys2Proof.core k s = .next t → inv t
  | 0, _, _, hs, h => by cases h; exact hs
  | k + 1, _, _, hs, h => by
    obtain ⟨u, h1, h2⟩ := step_of_run_next h
    exact run_keeps hstep k (hstep _ u hs h1) h2

end Sys2Proof.Machine
end

