-- ==== Sys2Proof/Laws/PerInstr.lean ====
section
/-! SUPPORT. Statements made for every operation as syntax, one lemma per constructor: its row of the table of R75 is consistent,
its selector names it, and its outgoing frame has the length its format fixes (spec/30_encoding.md R71, R75, R84). -/

namespace Sys2Proof.Laws.RowSound

open Sys2Proof

/-- An operation's row is consistent, its selector reads back as the operation, and its frame has its format's length. -/
def Statement (i : Instr) : Prop :=
  i.wellFormed = true ∧ (opRow i).ok = true ∧ decodeSelector (selector i) = .ok i ∧
    outLengthOk (opRow i).outFormat (encode i) = true

theorem measCs : Statement .measCs := ⟨rfl, rfl, rfl, rfl⟩

theorem measNcs : Statement .measNcs := ⟨rfl, rfl, rfl, rfl⟩

theorem perFetch : Statement .perFetch := ⟨rfl, rfl, rfl, rfl⟩

theorem perStart : Statement .perStart := ⟨rfl, rfl, rfl, rfl⟩

theorem perEnd : Statement .perEnd := ⟨rfl, rfl, rfl, rfl⟩

theorem idRead : Statement .idRead := ⟨rfl, rfl, rfl, rfl⟩

theorem reg1Read : Statement .reg1Read := ⟨rfl, rfl, rfl, rfl⟩

theorem reg2Read : Statement .reg2Read := ⟨rfl, rfl, rfl, rfl⟩

theorem reg1Clr : Statement .reg1Clr := ⟨rfl, rfl, rfl, rfl⟩

theorem sReset : Statement .sReset := ⟨rfl, rfl, rfl, rfl⟩

theorem gcReset : Statement .gcReset := ⟨rfl, rfl, rfl, rfl⟩

end Sys2Proof.Laws.RowSound
end

