-- ==== Sys2Proof/Tests/Slice0.lean ====
section
/-! SUPPORT. The model's own tests. Expected values are the spec's: the encodings of spec/30_encoding.md, the vectors V-… and
programs P… of spec/95_test_vectors.md. The second half shows, for every statement with hypotheses, a state and operands that
meet all of them. -/

namespace Sys2Proof.Tests

open Sys2Proof Sys2Proof.Machine

/-! ## Ill-formed terms are refused, one for each check -/

theorem test_selectorOk_refuses : selectorOk 11 = false ∧ selectorOk 15 = false ∧ selectorOk 10 = true := by decide

theorem test_tripleOk_refuses :
    Triple.ok 3 ⟨2, 2, 2⟩ = false ∧ Triple.ok 3 ⟨0, 1, 2⟩ = false ∧ Triple.ok 3 ⟨0, 3, 3⟩ = false ∧
    Triple.ok 3 ⟨0, 2, 2⟩ = true := by decide

/-- A selector out of range, a command without a code, a general call with one, a write that reads, a write with a triple, a
write that returns something, a read of no format, a read of the wrong length, a read that protects nothing, a read that protects
a byte outside its frame, and a status frame returned as a measurement. -/
theorem test_rowOk_refuses :
    (let w := writeRow 3 "PER.START" 0x201E
     let r := statusRow 6 "REG1.READ" .register1
     [{ w with selector := 11 }, { w with code := none }, { w with outFormat := .gc1 }, { w with rdLen := 3 },
      { w with triples := statusTriples }, { w with result := .register1 }, { r with inFormat := none }, { r with rdLen := 6 },
      { r with triples := [] }, { r with triples := idTriples }, { r with result := .measurement }].map OpRow.ok) =
      List.replicate 11 false := by decide

theorem test_outLengthOk_refuses :
    outLengthOk .cmd2 [0x2C] = false ∧ outLengthOk .gc1 [0x2C, 0x1B] = false ∧ outLengthOk .cmd2 [0x2C, 0x1B] = true := by
  decide

/-- V-CRC-R12, V-CRC-R13, V-CRC-R3, and a negative start (R102). -/
theorem test_rangeOk_refuses :
    rangeOk 6 4 3 = false ∧ rangeOk 6 0 7 = false ∧ rangeOk 6 (-1) 3 = false ∧ rangeOk 6 6 6 = true := by decide

/-! ## Every constructor's decoding, by words written out from R70, R72 and R74 -/

theorem test_decode_frames :
    [[0x2C, 0x1B], [0x24, 0x1D], [0xE0, 0x00], [0x20, 0x1E], [0x30, 0x93], [0x70, 0x29], [0xF3, 0x2D], [0x30, 0x41],
     [0x30, 0xA2]].map (fun out => (decode out).toOption) =
      [Instr.measCs, .measNcs, .perFetch, .perStart, .perEnd, .idRead, .reg1Read, .reg1Clr, .sReset].map some := by decide

theorem test_decode_gcReset : decode [Config.gcResetByte] = .ok .gcReset := by simp [decode]

theorem test_decode_selectors :
    (List.range 16).map (fun n => (decodeSelector (BitVec.ofNat 4 n)).toOption) =
      [Instr.measCs, .measNcs, .perFetch, .perStart, .perEnd, .idRead, .reg1Read, .reg2Read, .reg1Clr, .sReset,
       .gcReset].map some ++ List.replicate 5 none := by decide

/-- R83: a code one bit away from an operation's names none; a frame of another length is none (R84). -/
theorem test_decode_rejects :
    decode [0xF3, 0x2C] = .error (.unknownCode 0xF32C) ∧ decode [0x1B, 0x2C] = .error (.unknownCode 0x1B2C) ∧
    decode [] = .error (.badLength 0) ∧ decode [0x2C, 0x1B, 0x40] = .error (.badLength 3) := by
  refine ⟨?_, ?_, ?_, ?_⟩ <;> rfl

/-- The words of the opcode table, `out[0]` in the high byte (R87). -/
theorem test_decodeTableWord :
    [0x2C1B, 0x241D, 0xE000, 0x201E, 0x3093, 0x7029, 0xF32D, 0x3041, 0x30A2].map (decodeTableWord 16) =
      [Instr.measCs, .measNcs, .perFetch, .perStart, .perEnd, .idRead, .reg1Read, .reg1Clr, .sReset].map some := by
  decide +kernel

theorem test_decodeTableWord_gcReset : decodeTableWord 8 Config.gcResetByte.toNat = some .gcReset := by
  simp [decodeTableWord, frameOfTableWord, List.range_succ, decode]

/-! ## The checksum engine -/

/-- V-CRC-01 to V-CRC-09, V-CRC-19, V-CRC-21, V-CRC-23. -/
theorem test_crc8_vectors :
    [[], [0x00], [0x01], [0x80], [0xFF], [0x00, 0x00], [0xFF, 0xFF], [0xBE, 0xEF], [0x09, 0x29],
     [0x31, 0x32, 0x33, 0x34, 0x35, 0x36, 0x37, 0x38, 0x39], [1, 2, 3, 4, 5, 6, 7, 8], List.replicate 8 0xFF].map crc8 =
      [0xFF, 0xAC, 0x9D, 0xD6, 0x00, 0x81, 0xAC, 0x92, 0x4C, 0xF7, 0xD0, 0x28] := by decide +kernel

/-- V-CRC-R1 to V-CRC-R11. -/
theorem test_compute_ranges :
    [(0, 0), (3, 3), (6, 6), (0, 1), (0, 2), (0, 3), (3, 5), (3, 6), (0, 6), (1, 2), (2, 3)].map
      (fun p => compute [0x09, 0x29, 0x4C, 0x13, 0x88, 0x01] p.1 p.2) =
      [0xFF, 0xFF, 0xFF, 0x24, 0x4C, 0x00, 0x01, 0x00, 0x4B, 0xA2, 0xEC] := by decide +kernel

/-- V-CRC-T2: the pseudocode of R100 on `09`, its untruncated intermediates. -/
theorem test_pseudocode_trace :
    (List.range 9).map (fun n => Nat.iterate docBit n (0xFF, 0x09)) =
      [(0xFF, 0x09), (0x1CF, 0x012), (0x3AF, 0x024), (0x76F, 0x048), (0xEDE, 0x090), (0x1DBC, 0x120), (0x3B49, 0x240),
       (0x7692, 0x480), (0xED24, 0x900)] ∧ computeDoc [0x09, 0x29] 0 2 = 0x4C := by decide +kernel

/-- V-CRC-T1: the engine's register `CRC` after each clock on `09`. -/
theorem test_engine_trace :
    (List.range 9).map (fun n => (Nat.iterate engineClock n (0xFF, 0x09)).1) =
      [0xFF, 0xCF, 0xAF, 0x6F, 0xDE, 0xBC, 0x49, 0x92, 0x24] := by decide +kernel

/-- V-CRC-TABLE. -/
theorem test_crcTable :
    (List.range 256).map (fun n => crcTable (BitVec.ofNat 8 n)) =
      [0x00, 0x31, 0x62, 0x53, 0xC4, 0xF5, 0xA6, 0x97, 0xB9, 0x88, 0xDB, 0xEA, 0x7D, 0x4C, 0x1F, 0x2E] ++
    [0x43, 0x72, 0x21, 0x10, 0x87, 0xB6, 0xE5, 0xD4, 0xFA, 0xCB, 0x98, 0xA9, 0x3E, 0x0F, 0x5C, 0x6D] ++
    [0x86, 0xB7, 0xE4, 0xD5, 0x42, 0x73, 0x20, 0x11, 0x3F, 0x0E, 0x5D, 0x6C, 0xFB, 0xCA, 0x99, 0xA8] ++
    [0xC5, 0xF4, 0xA7, 0x96, 0x01, 0x30, 0x63, 0x52, 0x7C, 0x4D, 0x1E, 0x2F, 0xB8, 0x89, 0xDA, 0xEB] ++
    [0x3D, 0x0C, 0x5F, 0x6E, 0xF9, 0xC8, 0x9B, 0xAA, 0x84, 0xB5, 0xE6, 0xD7, 0x40, 0x71, 0x22, 0x13] ++
    [0x7E, 0x4F, 0x1C, 0x2D, 0xBA, 0x8B, 0xD8, 0xE9, 0xC7, 0xF6, 0xA5, 0x94, 0x03, 0x32, 0x61, 0x50] ++
    [0xBB, 0x8A, 0xD9, 0xE8, 0x7F, 0x4E, 0x1D, 0x2C, 0x02, 0x33, 0x60, 0x51, 0xC6, 0xF7, 0xA4, 0x95] ++
    [0xF8, 0xC9, 0x9A, 0xAB, 0x3C, 0x0D, 0x5E, 0x6F, 0x41, 0x70, 0x23, 0x12, 0x85, 0xB4, 0xE7, 0xD6] ++
    [0x7A, 0x4B, 0x18, 0x29, 0xBE, 0x8F, 0xDC, 0xED, 0xC3, 0xF2, 0xA1, 0x90, 0x07, 0x36, 0x65, 0x54] ++
    [0x39, 0x08, 0x5B, 0x6A, 0xFD, 0xCC, 0x9F, 0xAE, 0x80, 0xB1, 0xE2, 0xD3, 0x44, 0x75, 0x26, 0x17] ++
    [0xFC, 0xCD, 0x9E, 0xAF, 0x38, 0x09, 0x5A, 0x6B, 0x45, 0x74, 0x27, 0x16, 0x81, 0xB0, 0xE3, 0xD2] ++
    [0xBF, 0x8E, 0xDD, 0xEC, 0x7B, 0x4A, 0x19, 0x28, 0x06, 0x37, 0x64, 0x55, 0xC2, 0xF3, 0xA0, 0x91] ++
    [0x47, 0x76, 0x25, 0x14, 0x83, 0xB2, 0xE1, 0xD0, 0xFE, 0xCF, 0x9C, 0xAD, 0x3A, 0x0B, 0x58, 0x69] ++
    [0x04, 0x35, 0x66, 0x57, 0xC0, 0xF1, 0xA2, 0x93, 0xBD, 0x8C, 0xDF, 0xEE, 0x79, 0x48, 0x1B, 0x2A] ++
    [0xC1, 0xF0, 0xA3, 0x92, 0x05, 0x34, 0x67, 0x56, 0x78, 0x49, 0x1A, 0x2B, 0xBC, 0x8D, 0xDE, 0xEF] ++
    [0x82, 0xB3, 0xE0, 0xD1, 0x46, 0x77, 0x24, 0x15, 0x3B, 0x0A, 0x59, 0x68, 0xFF, 0xCE, 0x9D, 0xAC] := by
  decide +kernel

/-- The named parameters have the values of R9, and the table the mnemonics of R70. -/
theorem test_parameters :
    crcPoly = 0x31 ∧ crcInit = 0xFF ∧ scale = 100 ∧
    Instr.all.map mnemonic = ["MEAS.CS", "MEAS.NCS", "PER.FETCH", "PER.START", "PER.END", "ID.READ", "REG1.READ", "REG2.READ",
      "REG1.CLR", "SRESET", "GCRESET"] := by decide

/-! ## Fields and codes -/

/-- V-DEC-01, V-DEC-03, V-DEC-13, V-DEC-14: the printed forms (R135). -/
theorem test_printRaw :
    [be16 0x09 0x29, be16 0xFF 0xFF, be16 0xD8 0xF0, be16 0x00 0x05].map (fun raw => printRaw raw) =
      ["23.45", "655.35", "555.36", "0.05"] := by decide +kernel

/-- R85: `4`, `5`, `6` and `7` are all `Unknown`. -/
theorem test_classify :
    (List.range 8).map (fun n => StatusCode.classify (BitVec.ofNat 3 n)) =
      [.success, .notAcknowledged, .checksumError, .measurementError, .unknown, .unknown, .unknown, .unknown] := by decide

/-- R86: lines of programs P1 and P2. -/
theorem test_asmLine :
    asmLine .perStart (.w 0x11 [0x20, 0x1E] .done) = "PER.START ; -> done" ∧
    asmLine .reg1Read (.wr 0x11 [0xF3, 0x2D] 3 (.bytes [0x12, 0x34, 0x37])) = "REG1.READ ; -> bytes(12 34 37)" := by
  decide +kernel

/-! ## One operation each, on a small state -/

/-- A state between operations at the address `0x11`, with these requests and these answers. -/
def at11 (calls : List Request) (answers : List Answer) : State :=
  { addr := 0x11, sequencer := .idle, calls := calls, answers := answers, txCount := 0, history := [], outcomes := [],
    crcReplies := [] }

/-- The state a step goes on to. -/
def nextOf (o : Host.Outcome State Fault Refusal) : Option State :=
  match o with
  | .next s => some s
  | .fault _ => none
  | .refused _ => none

/-- The events and the records an operation adds when it is given one answer. -/
def seen (i : Instr) (a : Answer) : Option (List Event × List OutcomeRecord) :=
  (nextOf (exec i (at11 [] [a]))).map fun s => (s.history, s.outcomes)

/-- V-OP-01. -/
theorem test_measCs_ok :
    seen .measCs (.success ⟨0x09, 0x29, 0x4C, 0x13, 0x88, 0x01, 0, 0, 0⟩) =
      some ([.wr 0x11 [0x2C, 0x1B] 6 (.bytes [0x09, 0x29, 0x4C, 0x13, 0x88, 0x01])],
        [successRecord ⟨some 2345, some 5000, none, none⟩]) := by decide +kernel

/-- V-OP-02. -/
theorem test_measCs_mismatch :
    seen .measCs (.success ⟨0x09, 0x28, 0x4C, 0x13, 0x88, 0x01, 0, 0, 0⟩) =
      some ([.wr 0x11 [0x2C, 0x1B] 6 (.bytes [0x09, 0x28, 0x4C, 0x13, 0x88, 0x01])], [checksumRecord]) := by
  decide +kernel

/-- V-OP-04. -/
theorem test_measNcs_ok :
    seen .measNcs (.success ⟨0x09, 0xC4, 0xC1, 0x27, 0x10, 0xB0, 0, 0, 0⟩) =
      some ([.wr 0x11 [0x24, 0x1D] 6 (.bytes [0x09, 0xC4, 0xC1, 0x27, 0x10, 0xB0])],
        [successRecord ⟨some 2500, some 10000, none, none⟩]) := by decide +kernel

/-- V-OP-05: the second range fails, and no temperature is returned either. -/
theorem test_measNcs_second_range :
    seen .measNcs (.success ⟨0x09, 0x29, 0x4C, 0x13, 0x89, 0x01, 0, 0, 0⟩) =
      some ([.wr 0x11 [0x24, 0x1D] 6 (.bytes [0x09, 0x29, 0x4C, 0x13, 0x89, 0x01])], [checksumRecord]) := by
  decide +kernel

/-- V-OP-06. -/
theorem test_perFetch_ok :
    seen .perFetch (.success ⟨0x00, 0x01, 0xB0, 0x00, 0x64, 0xFE, 0, 0, 0⟩) =
      some ([.wr 0x11 [0xE0, 0x00] 6 (.bytes [0x00, 0x01, 0xB0, 0x00, 0x64, 0xFE])],
        [successRecord ⟨some 1, some 100, none, none⟩]) := by decide +kernel

/-- V-OP-19: a bus that reads all ones is caught. -/
theorem test_perFetch_all_ones :
    (seen .perFetch (.success ⟨0xFF, 0xFF, 0xFF, 0xFF, 0xFF, 0xFF, 0xFF, 0xFF, 0xFF⟩)).map (fun p => p.2) =
      some [checksumRecord] := by decide +kernel

/-- V-OP-07. -/
theorem test_idRead_ok :
    seen .idRead (.success ⟨1, 2, 3, 4, 5, 6, 7, 8, 0xD0⟩) =
      some ([.wr 0x11 [0x70, 0x29] 9 (.bytes [1, 2, 3, 4, 5, 6, 7, 8, 0xD0])],
        [successRecord ⟨none, none, some ⟨1, 2, 3, 4, 5, 6, 7, 8, 0xD0⟩, none⟩]) := by decide +kernel

/-- V-OP-08. -/
theorem test_idRead_mismatch :
    (seen .idRead (.success ⟨1, 2, 3, 4, 5, 6, 7, 8, 0xD1⟩)).map (fun p => p.2) = some [checksumRecord] := by
  decide +kernel

/-- V-OP-09, V-OP-10. -/
theorem test_status_reads_ok :
    (seen .reg1Read (.success ⟨0x12, 0x34, 0x37, 0, 0, 0, 0, 0, 0⟩)) =
      some ([.wr 0x11 [0xF3, 0x2D] 3 (.bytes [0x12, 0x34, 0x37])], [successRecord ⟨none, none, none, some 0x12⟩]) ∧
    (seen .reg2Read (.success ⟨0x12, 0x34, 0x37, 0, 0, 0, 0, 0, 0⟩)) =
      some ([.wr 0x11 [0xF3, 0x2D] 3 (.bytes [0x12, 0x34, 0x37])], [successRecord ⟨none, none, none, some 0x34⟩]) := by
  decide +kernel

/-- V-OP-11: the byte that does not match is not the one `REG1.READ` returns. -/
theorem test_reg1Read_mismatch :
    (seen .reg1Read (.success ⟨0x12, 0x35, 0x37, 0, 0, 0, 0, 0, 0⟩)).map (fun p => p.2) = some [checksumRecord] := by
  decide +kernel

/-- V-OP-12 to V-OP-15. -/
theorem test_write_only_done :
    [Instr.perStart, .perEnd, .reg1Clr, .sReset].map (fun i => seen i (.success default)) =
      [[0x20, 0x1E], [0x30, 0x93], [0x30, 0x41], [0x30, 0xA2]].map fun out =>
        some ([Event.w 0x11 out .done], [successRecord ⟨none, none, none, none⟩]) := by decide +kernel

/-- V-OP-03, V-OP-16, for every transport error. -/
theorem test_transport_failures (e : TransportErr) :
    seen .measCs (.fail e) = some ([.wr 0x11 [0x2C, 0x1B] 6 (.fail e)], [transportRecord e]) ∧
    seen .sReset (.fail e) = some ([.w 0x11 [0x30, 0xA2] (.fail e)], [transportRecord e]) := ⟨rfl, rfl⟩

/-- V-OP-17, V-OP-18: the general call goes to its own address. -/
theorem test_gcReset (e : TransportErr) :
    seen .gcReset (.success default) =
      some ([.w Config.gcAddress [Config.gcResetByte] .done], [successRecord ⟨none, none, none, none⟩]) ∧
    seen .gcReset (.fail e) =
      some ([.w Config.gcAddress [Config.gcResetByte] (.fail e)], [transportRecord e]) := ⟨rfl, rfl⟩

/-- V-OP-21: selector 12 is refused. -/
theorem test_selector_refused : step (at11 [.op 12] []) = .refused (.unknownSelector 12) := rfl

/-- V-CRC-R7 through the CRC port, and V-CRC-R12 refused. -/
theorem test_crcPort :
    (nextOf (step (at11 [.crc [0x09, 0x29, 0x4C, 0x13, 0x88, 0x01] 3 5] []))).map (fun s => s.crcReplies) = some [0x01] ∧
    step (at11 [.crc [0x09, 0x29, 0x4C, 0x13, 0x88, 0x01] 4 3] []) = .refused .crcRangeOutsideContract :=
  ⟨by decide +kernel, rfl⟩

/-- A word of the opcode table runs as the first operation after reset. -/
theorem test_first_after_reset : step (State.reset.withFetchWord 16 0x7029) = exec .idRead State.reset := rfl

/-- R26: in the middle of an operation the response registers hold the response. -/
theorem test_response_registers :
    ((at11 [] []).accept.withRegs (LocalRegs.blank.load 3 [0x12, 0x34, 0x37])).regs.rlen = some 3 ∧
    ((at11 [] []).accept.withRegs (LocalRegs.blank.load 3 [0x12, 0x34, 0x37])).regs.readRB 2 = some 0x37 ∧
    ((at11 [] []).accept.withRegs (LocalRegs.blank.load 3 [0x12, 0x34, 0x37])).regs.readRB 3 = none := by decide +kernel

/-! ## Witnesses: every statement's hypotheses are met, clause by clause -/

/-- O1: the first and the last selector that names an operation, and the first and the last that names none. -/
theorem witness_selectors :
    decodeSelector 0 = .ok .measCs ∧ decodeSelector 10 = .ok .gcReset ∧ 11 ≤ (11 : BitVec 4).toNat ∧
    decodeSelector 11 = .error (.unknownSelector 11) ∧ decodeSelector 15 = .error (.unknownSelector 15) := by
  refine ⟨rfl, rfl, ?_, rfl, rfl⟩; decide

/-- O3, O4: an outgoing frame that decodes, and the two operations with one frame and one request. -/
theorem witness_frames :
    decode [0xE0, 0x00] = .ok .perFetch ∧ encode .reg1Read = encode .reg2Read ∧
    framer .reg1Read 0x11 = framer .reg2Read 0x11 := ⟨rfl, rfl, rfl⟩

/-- O5: both sides hold of a two-byte write to `ADDR` and of the general call. -/
theorem witness_traffic :
    decodeTraffic 0x11 0x11 [0x70, 0x29] = some .idRead ∧ frameClass .idRead = .idRead ∧
    [0x70, 0x29] = encode .idRead ∧ decodeTraffic 0x11 Config.gcAddress [Config.gcResetByte] = some .gcReset ∧
    decodeTraffic 0x11 0x12 [0x70, 0x29] = none := by
  refine ⟨rfl, rfl, rfl, ?_, rfl⟩
  simp [decodeTraffic, decode]

/-- O6: the longest frame, with the first and the last byte of its triple. -/
theorem witness_triples :
    (⟨0, 8, 8⟩ : Triple) ∈ (opRow .idRead).triples ∧ (List.replicate 9 (0 : Byte)).length = (opRow .idRead).rdLen ∧
    (⟨3, 5, 5⟩ : Triple) ∈ (opRow .measCs).triples ∧ (⟨0, 2, 2⟩ : Triple) ∈ (opRow .reg2Read).triples := by decide

/-- O7: responses of the three lengths. -/
theorem witness_responses :
    ([0, 0, 0] : List Byte).length ∈ [3, 6, 9] ∧ (List.replicate 6 (0 : Byte)).length ∈ [3, 6, 9] ∧
    (List.replicate 9 (0 : Byte)).length ∈ [3, 6, 9] := by decide

/-- O8: equal fields. -/
theorem witness_fields : be16 0xFF 0xFF = be16 0xFF 0xFF ∧ be16 0xFF 0xFF = 0xFFFF := by decide +kernel

/-- O50: every reading operation is one, and two ranges with the same bytes that start in different places. -/
theorem witness_corners :
    [Instr.measCs, .measNcs, .perFetch, .idRead, .reg1Read, .reg2Read].map (fun i => (opRow i).kind) = List.replicate 6 .wr ∧
    slice [0x09, 0x29, 0x4C] 0 2 = slice [0xAA, 0x09, 0x29] 1 3 := by decide +kernel

/-- O11: the two ranges agree on `[1, 3)` and differ outside it. -/
theorem witness_ranges :
    1 ≤ 3 ∧ 3 ≤ ([0xAA, 0x12, 0x34] : List Byte).length ∧ 3 ≤ ([0xBB, 0x12, 0x34, 0x56] : List Byte).length ∧
    (∀ j, 1 ≤ j → j < 3 → ([0xAA, 0x12, 0x34] : List Byte)[j]? = ([0xBB, 0x12, 0x34, 0x56] : List Byte)[j]?) := by
  refine ⟨by decide, by decide, by decide, ?_⟩
  intro j h1 h2
  interval_cases j <;> rfl

/-- O14, O15: two sequences of one length, and two distinct bytes. -/
theorem witness_sequences :
    ([0x12, 0x34] : List Byte).length = ([0xFF, 0x00] : List Byte).length ∧ (0x12 : Byte) ≠ 0x13 := by decide

/-- O17: a valid two-byte range and a valid eight-byte range (V-VAL-30, V-VAL-20), with one flipped bit and with three. -/
theorem witness_flips :
    2 ∈ [2, 8] ∧ 8 ∈ [2, 8] ∧ frameValid [⟨0, 2, 2⟩] [0x12, 0x34, 0x37] = true ∧
    frameValid [⟨0, 8, 8⟩] [1, 2, 3, 4, 5, 6, 7, 8, 0xD0] = true ∧ [23].Nodup ∧ (∀ j ∈ [23], j < 8 * (2 + 1)) ∧
    [0, 35, 71].Nodup ∧ (∀ j ∈ [0, 35, 71], j < 8 * (8 + 1)) := by decide +kernel

/-- O18, O19, O20: a valid group (V-VAL-30), an odd pattern of five bits, the shortest and the longest burst at the ends. -/
theorem witness_patterns :
    frameValid [⟨0, 2, 2⟩] [0x12, 0x34, 0x37] = true ∧ weight [0x07, 0x01, 0x80] % 2 = 1 ∧ (0x01 : Byte) ≠ 0 ∧
    (0xFF : Byte) ≠ 0 ∧ 0 ≤ 16 ∧ 16 ≤ 16 := by decide +kernel

/-- O22: the two triples of a measurement in the other order. -/
theorem witness_order : measTriples.Perm [⟨3, 5, 5⟩, ⟨0, 2, 2⟩] := by decide

/-- O23, O24, O25, O26, O27: the next answer a failure; a success whose checksums match; a success whose checksums do not. -/
theorem witness_answers :
    (at11 [] [.fail default]).nextAnswer = .fail default ∧
    (at11 [] [.success ⟨0x09, 0x29, 0x4C, 0x13, 0x88, 0x01, 0, 0, 0⟩]).nextAnswer =
      .success ⟨0x09, 0x29, 0x4C, 0x13, 0x88, 0x01, 0, 0, 0⟩ ∧
    computeDoc [0x09, 0x29, 0x4C, 0x13, 0x88, 0x01] 0 2 = (0x4C : Byte).toNat ∧
    computeDoc [0x09, 0x29, 0x4C, 0x13, 0x88, 0x01] 3 5 = (0x01 : Byte).toNat ∧
    computeDoc [0x09, 0x28, 0x4C, 0x13, 0x88, 0x01] 0 2 ≠ (0x4C : Byte).toNat ∧
    computeDoc [1, 2, 3, 4, 5, 6, 7, 8, 0xD0] 0 8 = (0xD0 : Byte).toNat ∧
    computeDoc [1, 2, 3, 4, 5, 6, 7, 8, 0xD1] 0 8 ≠ (0xD1 : Byte).toNat := by decide +kernel

/-- O29: every operation goes on from this state. -/
theorem witness_goes_on (i : Instr) : ∃ t, exec i (at11 [] [.fail default]) = .next t := by
  cases i <;> exact ⟨_, rfl⟩

/-- O31, O32, O33: each of the three kinds is reached. -/
theorem witness_kinds :
    (seen .measCs (.success ⟨0x09, 0x29, 0x4C, 0x13, 0x88, 0x01, 0, 0, 0⟩)).map (fun p => p.2.map (·.kind)) =
      some [.ok] ∧
    (seen .measCs (.success ⟨0x09, 0x28, 0x4C, 0x13, 0x88, 0x01, 0, 0, 0⟩)).map (fun p => p.2.map (·.kind)) =
      some [.checksumError] ∧
    (seen .measCs (.fail default)).map (fun p => p.2.map (·.kind)) = some [.transportError] := by decide +kernel

/-- O34: two states that differ in everything but `ADDR` and the next answer. -/
theorem witness_agree :
    (at11 [.op 3] [.fail default]).addr = ({ at11 [] [.fail default, .fail default] with txCount := 9, crcReplies := [0] }).addr ∧
    (at11 [.op 3] [.fail default]).nextAnswer =
      ({ at11 [] [.fail default, .fail default] with txCount := 9, crcReplies := [0] }).nextAnswer := ⟨rfl, rfl⟩

/-- O35: a valid frame with its first and its last bit flipped, each in its own range. -/
theorem witness_corruption :
    frameValid measTriples ((⟨0x09, 0x29, 0x4C, 0x13, 0x88, 0x01, 0, 0, 0⟩ : Bytes9).toList.take 6) = true ∧
    [0].Nodup ∧ (∀ j ∈ [0], j < 24) ∧ [24, 46, 47].Nodup ∧ (∀ j ∈ [24, 46, 47], 24 ≤ j ∧ j < 48) ∧
    (⟨0x89, 0x29, 0x4C, 0x13, 0x88, 0x01, 0, 0, 0⟩ : Bytes9).toList.take 6 =
      [0].foldl flipBit ((⟨0x09, 0x29, 0x4C, 0x13, 0x88, 0x01, 0, 0, 0⟩ : Bytes9).toList.take 6) ∧
    (⟨0x09, 0x29, 0x4C, 0x93, 0x88, 0x02, 0, 0, 0⟩ : Bytes9).toList.take 6 =
      [24, 46, 47].foldl flipBit ((⟨0x09, 0x29, 0x4C, 0x13, 0x88, 0x01, 0, 0, 0⟩ : Bytes9).toList.take 6) ∧
    (at11 [] [.success ⟨0x89, 0x29, 0x4C, 0x13, 0x88, 0x01, 0, 0, 0⟩]).nextAnswer =
      .success ⟨0x89, 0x29, 0x4C, 0x13, 0x88, 0x01, 0, 0, 0⟩ := by decide +kernel

/-- O36, O37: an idle state with a request that names an operation, and a word that names one. -/
theorem witness_request :
    (at11 [.op 10, .op 0] []).sequencer = .idle ∧ (at11 [.op 10, .op 0] []).calls = [.op 10, .op 0] ∧
    decodeSelector 10 = .ok .gcReset ∧ decodeTableWord 16 0x2C1B = some .measCs := by
  exact ⟨rfl, rfl, rfl, rfl⟩

/-- O38, O44, O46: steps that go on, without a request, with an operation and with a checksum. -/
theorem witness_steps :
    step (at11 [] []) = .next (at11 [] []) ∧ (nextOf (step (at11 [.op 9] [.fail default]))).isSome = true ∧
    (nextOf (step (at11 [.crc [] 0 0] []))).isSome = true := by
  refine ⟨rfl, ?_, ?_⟩ <;> decide +kernel

/-- O39, O40: each of the three refusals, and the fault. -/
theorem witness_stops :
    step (at11 [.op 15] []) = .refused (.unknownSelector 15) ∧
    step ((at11 [.op 0] []).accept) = .refused .requestWhileBusy ∧
    step (at11 [.crc [0x12] (-1) 1] []) = .refused .crcRangeOutsideContract ∧
    step (at11 [.crc [0x12] 1 0] []) = .refused .crcRangeOutsideContract ∧
    step (at11 [.crc [0x12] 0 2] []) = .refused .crcRangeOutsideContract ∧
    step ((at11 [] []).accept) = .fault .collaboratorSilent := ⟨rfl, rfl, rfl, rfl, rfl, rfl⟩

/-- O41, O42: a state with the last selector, and one with a checksum over a whole buffer. -/
theorem witness_service :
    (10 : BitVec 4).toNat ≤ 10 ∧ (at11 [.op 10] []).calls = [.op 10] ∧
    (0 : Int) ≤ 0 ∧ (0 : Int) ≤ 2 ∧ (2 : Int) ≤ (([0x12, 0x34] : List Byte).length : Int) ∧
    (at11 [.crc [0x12, 0x34] 0 2] []).calls = [.crc [0x12, 0x34] 0 2] := by decide

/-- O43: two status reads requested, with their answers (program P3, steps 1 and 2). -/
theorem witness_two_reads :
    (at11 [.op 6, .op 7] [.success ⟨0x12, 0x34, 0x37, 0, 0, 0, 0, 0, 0⟩, .success ⟨0x12, 0x34, 0x37, 0, 0, 0, 0, 0, 0⟩]).calls =
      [.op 6, .op 7] := rfl

/-- O46: a sound state whose history is not empty. -/
theorem witness_sound :
    (({ at11 [.op 0] [] with
        history := [.w 0x11 [0x20, 0x1E] .done]
        outcomes := [successRecord ⟨none, none, none, none⟩] } : State)).sound :=
  ⟨rfl, .cons ⟨.perStart, rfl, rfl, rfl, rfl⟩ .nil⟩

/-- O47: from a sound state a run hands out a temperature. -/
theorem witness_reported :
    (at11 [.op 0] [.success ⟨0x09, 0x29, 0x4C, 0x13, 0x88, 0x01, 0, 0, 0⟩]).sound ∧
    (nextOf (Host.Core.run Sys2Proof.core 1
      (at11 [.op 0] [.success ⟨0x09, 0x29, 0x4C, 0x13, 0x88, 0x01, 0, 0, 0⟩]))).map
        (fun t => t.outcomes.map fun o => o.fields.tRaw) = some [some 2345] :=
  ⟨⟨rfl, .nil⟩, by decide +kernel⟩

/-- O48: two requested operations, and one more later. -/
theorem witness_requests :
    (at11 [.op 3, .op 10, .op 4] []).calls = [Instr.perStart, .gcReset].map (fun i => Request.op (selector i)) ++ [.op 4] :=
  rfl

end Sys2Proof.Tests
end

namespace Sys2Proof.Machine

/-- Settles O28 (R23): whatever the answer, an operation's next state is `State.after` its transaction, which keeps `ADDR`. -/
theorem noOperationChangesAddr : Obligations.NoOperationChangesAddr := by
  intro i s
  exact ⟨_, exec_eq_after i s, State.after_addr s _ _⟩

end Sys2Proof.Machine

namespace Sys2Proof.Machine

/-! ## Protected ranges (spec/20_memory.md R49) -/

/-- `Triple.ok` read as the three conditions of R49. -/
theorem triple_ok_iff (n : Nat) (t : Triple) : t.ok n = true ↔ t.s < t.e ∧ t.e = t.k ∧ t.k < n := by
  simp [Triple.ok, and_assoc]

/-- A response of exactly `RLEN` bytes is received whole. -/
theorem LocalRegs.received_load_whole (r : LocalRegs) {n : Nat} {b : List Byte} (hn : n < 16) (hb : b.length = n) :
    (r.load n b).received = b := by
  rw [LocalRegs.received_load r n b hn, List.take_of_length_le hb.le]

/-- Once a response of exactly `RLEN` bytes is in `RB`, `RB[j]` is its byte `j`. -/
theorem LocalRegs.readRB_load_whole (r : LocalRegs) {n : Nat} {b : List Byte} (hn : n < 16) (hb : b.length = n) (j : Nat) :
    (r.load n b).readRB j = b[j]? := by
  rw [LocalRegs.readRB, r.received_load_whole hn hb]

/-- The four protected ranges R49 lists, each with the length of its frame. -/
def protectedRanges : List (Triple × Nat) :=
  [(⟨0, 2, 2⟩, 6), (⟨3, 5, 5⟩, 6), (⟨0, 8, 8⟩, 9), (⟨0, 2, 2⟩, 3)]

/-- Every row of the table of R75 takes its triples from R49's list: a measurement the first two, the identification the third,
a status read the last, and a write-only row has none. -/
theorem opRow_triples_mem_protectedRanges (i : Instr) :
    ∀ t ∈ (opRow i).triples, (t, (opRow i).rdLen) ∈ protectedRanges := by
  cases i with
  | measCs | measNcs | perFetch =>
    change ∀ t ∈ measTriples, (t, 6) ∈ protectedRanges
    decide
  | idRead =>
    change ∀ t ∈ idTriples, (t, 9) ∈ protectedRanges
    decide
  | reg1Read | reg2Read =>
    change ∀ t ∈ statusTriples, (t, 3) ∈ protectedRanges
    decide
  | perStart | perEnd | reg1Clr | sReset | gcReset => exact List.forall_mem_nil _

/-- Each range of R49's list lies inside its frame, and the frame's length fits the four bits of `RLEN`. -/
theorem protectedRanges_ok : ∀ p ∈ protectedRanges, p.1.ok p.2 = true ∧ p.2 < 16 := by decide

/-- A range with its checksum byte inside the received frame is in the contract of `compute`. -/
theorem rangeOk_of_triple_ok {n : Nat} {t : Triple} (h : t.ok n = true) : rangeOk n t.s t.e = true := by
  obtain ⟨hse, hek, hkn⟩ := (triple_ok_iff n t).1 h
  simp only [rangeOk, Bool.and_eq_true, decide_eq_true_eq]
  omega

/-- Settles O6 (R49): each row's triples are on the rule's list, every range there lies inside its frame, and a frame of that
length is held whole in `RB`. -/
theorem protectedRangesLieInsideTheFrame : Obligations.ProtectedRangesLieInsideTheFrame := by
  intro i t ht
  have hlisted := opRow_triples_mem_protectedRanges i t ht
  obtain ⟨hok, hlen⟩ := protectedRanges_ok _ hlisted
  obtain ⟨hse, hek, hkn⟩ := (triple_ok_iff _ t).1 hok
  refine ⟨hlisted, hse, hek, hkn, fun r b hb => ⟨?_, fun j _ hjk => ?_⟩⟩
  · rw [r.received_load_whole hlen hb, hb]
    exact rangeOk_of_triple_ok hok
  · have hj : j < b.length := by omega
    have hbyte : b[j]? = some b[j] := List.getElem?_eq_getElem hj
    exact ⟨b[j], (r.readRB_load_whole hlen hb j).trans hbyte, hbyte⟩

end Sys2Proof.Machine

namespace Sys2Proof.Machine

/-! ## Selectors (spec/30_encoding.md R70, R82) -/

/-- The operations in the order of R70's table are numbered from 0. -/
theorem map_selector_toNat_all : (Instr.all.map fun i => (selector i).toNat) = List.range 11 := by decide

/-- The look-up of an operation's selector stops at the operation's own row: no earlier row has its number. -/
theorem decodeSelector_selector (i : Instr) : decodeSelector (selector i) = .ok i := by
  cases i <;> rfl

/-- The rows' selectors are the numbers 0 to 10, so a selector is in a row exactly when it is below 11. -/
theorem exists_selector_eq_iff (sel : BitVec 4) : (∃ i, selector i = sel) ↔ sel.toNat < 11 := by
  rw [← List.mem_range, ← map_selector_toNat_all]
  simp [BitVec.toNat_inj]

/-- Settles O1 (R70, R82): the table numbers the operations from 0 to 10, each selector is read back by its own row, and what is
in no row is rejected. -/
theorem selectorNamesExactlyTheElevenOperations : Obligations.SelectorNamesExactlyTheElevenOperations := by
  refine ⟨map_selector_toNat_all, decodeSelector_selector, fun _ _ => decodeSelector_ok, fun sel => ?_⟩
  calc 11 ≤ sel.toNat
    _ ↔ ¬ ∃ i, selector i = sel := by rw [exists_selector_eq_iff, not_lt]
    _ ↔ decodeSelector sel = .error (.unknownSelector sel) := by rw [decodeSelector_error_iff, not_exists]; rfl

end Sys2Proof.Machine

namespace Sys2Proof.Machine

/-! ## The pseudocode and the byte form (spec/40_checksum.md R100, R103, R104) -/

/-- The pseudocode's pair cut to two 8-bit registers. -/
def truncatePair (p : Nat × Nat) : Byte × Byte := (BitVec.ofNat 8 p.1, BitVec.ofNat 8 p.2)

theorem ofNat_shiftLeft_one (n : Nat) : BitVec.ofNat 8 (n <<< 1) = BitVec.ofNat 8 n <<< 1 := by
  apply BitVec.eq_of_toNat_eq
  simp [Nat.shiftLeft_eq, Nat.mod_mul_mod]

/-- The pseudocode's test reads bit 7 alone. -/
theorem and_0x80_ne_zero (n : Nat) : (n &&& 0x80 != 0) = n.testBit 7 := by
  rw [show 0x80 = 2 ^ 7 from rfl, Nat.and_two_pow]
  cases n.testBit 7 <;> rfl

/-- Cutting after a repetition of the pseudocode is one clock of the engine on the cut pair (R104, points 1 and 2). -/
theorem semiconj_truncatePair : Function.Semiconj truncatePair docBit engineClock := by
  rintro ⟨crc, cur⟩
  have htop : ((BitVec.ofNat 8 crc).getLsbD 7 ^^ (BitVec.ofNat 8 cur).getLsbD 7) = ((crc ^^^ cur) &&& 0x80 != 0) := by
    rw [and_0x80_ne_zero, Nat.testBit_xor, BitVec.getLsbD_ofNat, BitVec.getLsbD_ofNat]
    rfl
  simp only [truncatePair, docBit, engineClock, crc8Bit, htop, ofNat_shiftLeft_one]
  split <;> simp [BitVec.ofNat_xor, ofNat_shiftLeft_one]

/-- One byte of the pseudocode is the byte step (R104, point 4). -/
theorem docByte_toNat (c b : Byte) : docByte c.toNat b = (crc8Step c b).toNat := by
  have hcut : truncatePair (Nat.iterate docBit 8 (c.toNat, b.toNat)) = (crc8Step c b, 0) := by
    rw [semiconj_truncatePair.iterate_right 8 (c.toNat, b.toNat)]
    simp [truncatePair, engineClock_eight]
  calc docByte c.toNat b
    _ = (truncatePair (Nat.iterate docBit 8 (c.toNat, b.toNat))).1.toNat := Nat.and_two_pow_sub_one_eq_mod _ 8
    _ = (crc8Step c b).toNat := by rw [hcut]

theorem foldl_docByte_toNat (c : Byte) (bytes : List Byte) : bytes.foldl docByte c.toNat = (crc8From c bytes).toNat :=
  List.foldl_hom BitVec.toNat docByte_toNat

/-- The machine's `compute` is the pseudocode's, on every range (R103). -/
theorem computeDoc_eq_compute (b : List Byte) (s e : Nat) : computeDoc b s e = (compute b s e).toNat :=
  foldl_docByte_toNat crcInit (slice b s e)

@[simp] theorem slice_whole (b : List Byte) : slice b 0 b.length = b := by simp [slice]

@[simp] theorem slice_empty (b : List Byte) (s : Nat) : slice b s s = [] := by simp [slice]

/-- Settles O10 (R103): cut to eight bits the pseudocode runs as the engine does, and the engine absorbs a byte by the byte
step. -/
theorem byteFormChecksumEqualsThePseudocode : Obligations.ByteFormChecksumEqualsThePseudocode := by
  refine ⟨fun b => ?_, by decide, by decide⟩
  rw [computeDoc_eq_compute, compute, slice_whole]

/-! ## The bit step (R105) -/

/-- After `n` clocks the engine has taken in the top `n` bits of its byte, most significant first. -/
theorem engineClock_iterate (n : Nat) (c b : Byte) :
    Nat.iterate engineClock n (c, b) = (((List.range n).map fun k => (b <<< k).getLsbD 7).foldl crc8Bit c, b <<< n) := by
  induction n with
  | zero => simp
  | succ n ih =>
    rw [Function.iterate_succ_apply', ih, engineClock, BitVec.shiftLeft_add]
    simp [List.range_succ]

/-- The multiple of a byte by one bit. -/
def bitTimes (d : Bool) (v : Byte) : Byte := if d then v else 0

@[simp] theorem bitTimes_getElem (d : Bool) (v : Byte) (i : Nat) (h : i < 8) : (bitTimes d v)[i] = (d && v[i]) := by
  cases d <;> simp [bitTimes]

theorem bitTimes_xor (d d' : Bool) (v : Byte) : bitTimes (d ^^ d') v = bitTimes d v ^^^ bitTimes d' v := by
  cases d <;> cases d' <;> simp [bitTimes]

/-- A bit step is a shift and a multiple of the polynomial: the feedback bit decides whether the taps are complemented. -/
theorem crc8Bit_eq (c : Byte) (d : Bool) : crc8Bit c d = (c <<< 1) ^^^ bitTimes (c.getLsbD 7 ^^ d) crcPoly := by
  unfold crc8Bit bitTimes
  split <;> simp

/-- Settles O12 (R105): eight clocks of the engine are the byte step and take the byte in bit by bit; each next-state equation is
the shift with the taps 0, 4 and 5. -/
theorem byteStepIsEightBitSteps : Obligations.ByteStepIsEightBitSteps := by
  refine ⟨fun c b => ?_, fun c d => ?_, by decide⟩
  · have hbits : ((List.range 8).map fun k => (b <<< k).getLsbD 7) = [7, 6, 5, 4, 3, 2, 1, 0].map fun j => b.getLsbD j := by
      simp [List.range_succ]
    rw [← hbits]
    exact congrArg Prod.fst ((engineClock_eight c b).symm.trans (engineClock_iterate 8 c b))
  · simp [crc8Bit_eq, crcPoly]

/-! ## The table (R106) -/

theorem crcShift_eq (x : Byte) : crcShift x = (x <<< 1) ^^^ bitTimes (x.getLsbD 7) crcPoly := by
  unfold crcShift bitTimes
  split <;> simp

theorem crcShift_xor (x y : Byte) : crcShift (x ^^^ y) = crcShift x ^^^ crcShift y := by
  simp only [crcShift_eq, BitVec.getLsbD_xor, shiftLeft_one_xor, bitTimes_xor]
  ac_rfl

theorem crcShift_iterate_xor (n : Nat) (x y : Byte) :
    Nat.iterate crcShift n (x ^^^ y) = Nat.iterate crcShift n x ^^^ Nat.iterate crcShift n y := by
  induction n generalizing x y with
  | zero => rfl
  | succ n ih => simp only [Function.iterate_succ_apply, crcShift_xor, ih]

theorem crc8Step_eq_crcTable (c b : Byte) : crc8Step c b = crcTable (c ^^^ b) := by
  simp [crcTable, crc8Step]

theorem crcTable_xor (x y : Byte) : crcTable (x ^^^ y) = crcTable x ^^^ crcTable y := by
  simp [crcTable, crc8Step, crcShift_iterate_xor]

@[simp] theorem crcTable_zero : crcTable 0#8 = 0#8 := by decide

theorem crcTable_units :
    [0x01, 0x02, 0x04, 0x08, 0x10, 0x20, 0x40, 0x80].map crcTable = [0x31, 0x62, 0xC4, 0xB9, 0x43, 0x86, 0x3D, 0x7A] := by
  decide

@[simp] theorem crcTable_bitTimes (d : Bool) (v : Byte) : crcTable (bitTimes d v) = bitTimes d (crcTable v) := by
  cases d <;> simp [bitTimes]

/-- A byte is the exclusive or of the unit bytes of its bits. -/
theorem eq_xor_units (x : Byte) :
    x = bitTimes (x.getLsbD 7) 0x80 ^^^ bitTimes (x.getLsbD 6) 0x40 ^^^ bitTimes (x.getLsbD 5) 0x20 ^^^
      bitTimes (x.getLsbD 4) 0x10 ^^^ bitTimes (x.getLsbD 3) 0x08 ^^^ bitTimes (x.getLsbD 2) 0x04 ^^^
      bitTimes (x.getLsbD 1) 0x02 ^^^ bitTimes (x.getLsbD 0) 0x01 := by
  apply BitVec.eq_of_getLsbD_eq
  intro i hi
  interval_cases i <;> simp

/-- By linearity the unit values give every entry of the table. -/
theorem crcTable_eq_xor_units (x : Byte) :
    crcTable x = bitTimes (x.getLsbD 7) 0x7A ^^^ bitTimes (x.getLsbD 6) 0x3D ^^^ bitTimes (x.getLsbD 5) 0x86 ^^^
      bitTimes (x.getLsbD 4) 0x43 ^^^ bitTimes (x.getLsbD 3) 0xB9 ^^^ bitTimes (x.getLsbD 2) 0xC4 ^^^
      bitTimes (x.getLsbD 1) 0x62 ^^^ bitTimes (x.getLsbD 0) 0x31 := by
  have hunits := crcTable_units
  simp only [List.map_cons, List.map_nil, List.cons.injEq, and_true] at hunits
  obtain ⟨h0, h1, h2, h3, h4, h5, h6, h7⟩ := hunits
  conv_lhs => rw [eq_xor_units x]
  simp only [crcTable_xor, crcTable_bitTimes, h0, h1, h2, h3, h4, h5, h6, h7]

/-- Settles O13 (R106): eight shifts are linear, so the eight unit values decide the table, and a bit of an entry is the exclusive
or of the bits whose unit value has it. -/
theorem byteStepIsALinearTableLookup : Obligations.ByteStepIsALinearTableLookup := by
  refine ⟨crc8Step_eq_crcTable, crcTable_xor, crcTable_zero, crcTable_units, fun x => ?_⟩
  simp [crcTable_eq_xor_units x]

/-! ## Corner cases (R108) -/

theorem frameValid_replicate_of_reading (i : Instr) (h : (opRow i).kind = .wr) :
    frameValid (opRow i).triples (List.replicate (opRow i).rdLen 0x00) = false ∧
    frameValid (opRow i).triples (List.replicate (opRow i).rdLen 0xFF) = false := by
  cases i with
  | measCs | measNcs | perFetch | idRead | reg1Read | reg2Read => decide +kernel
  | perStart | perEnd | reg1Clr | sReset | gcReset => cases h

/-- Settles O50 (R108): both forms read nothing but the bytes of the range, and the two forms agree. -/
theorem checksumCornerCases : Obligations.ChecksumCornerCases := by
  refine ⟨fun b s => ?_, by decide, by decide, frameValid_replicate_of_reading, fun b s e => ?_, fun b b' s e s' e' h => ?_⟩
  · simp [computeDoc, compute, crc8, crc8From, crcInit]
  · rw [computeDoc_eq_compute]
    exact Nat.le_of_lt_succ (compute b s e).isLt
  · simp only [computeDoc, compute, h, and_self]

end Sys2Proof.Machine

namespace Sys2Proof.Machine

/-! ## Every operation is accounted for (spec/20_memory.md R55; spec/43_operations.md R150 to R153) -/

/-- What the validator checks is what the pseudocode calls a valid frame (R103, R110). -/
theorem passes_eq_frameValid (triples : List Triple) (b : List Byte) : passes triples b = frameValid triples b := by
  unfold passes frameValid
  congr 1
  funext t
  rw [computeDoc_eq_compute, compute, BEq.comm]
  cases b[t.k]? with
  | none => rfl
  | some x =>
    rw [Bool.eq_iff_iff]
    simp [BitVec.toNat_inj]

theorem LocalRegs.readField_eq_fieldAt (r : LocalRegs) (j : Nat) : r.readField j = fieldAt r.received j := by
  simp only [LocalRegs.readField, LocalRegs.readRB, fieldAt]
  cases r.received[j]? <;> cases r.received[j + 1]? <;> rfl

/-- The decoder of an operation's row reads from the received bytes the fields the operation owes for them (R153). -/
theorem decodeResult_eq_fieldsOwed (i : Instr) (r : LocalRegs) :
    decodeResult (opRow i).result r = fieldsOwed i r.received := by
  cases i with
  | measCs | measNcs | perFetch =>
    change decodeMeas r = ⟨fieldAt r.received 0, fieldAt r.received 3, none, none⟩
    rw [← r.readField_eq_fieldAt, ← r.readField_eq_fieldAt]
    rfl
  | idRead =>
    change decodeId r = fieldsOwed .idRead r.received
    unfold decodeId
    split
    next h => rw [h]; rfl
    next => simp [fieldsOwed, ResultFields.none]
  | reg1Read | reg2Read | perStart | perEnd | reg1Clr | sReset | gcReset => rfl

theorem framer_kind (i : Instr) (own : BusAddr) : (framer i own).kind = (opRow i).kind := by cases i <;> rfl

theorem framer_out (i : Instr) (own : BusAddr) : (framer i own).out = encode i := by cases i <;> rfl

/-- A reading operation asks `ADDR` for its row's number of bytes (R121). -/
theorem framer_of_reading {i : Instr} (own : BusAddr) (h : (opRow i).kind = .wr) :
    (framer i own).addr = own ∧ (framer i own).n = (opRow i).rdLen := by
  cases i with
  | measCs | measNcs | perFetch | idRead | reg1Read | reg2Read => exact ⟨rfl, rfl⟩
  | perStart | perEnd | reg1Clr | sReset | gcReset => cases h

/-- A write-only operation returns nothing (R154). -/
theorem result_of_writing {i : Instr} (h : (opRow i).kind = .w) : (opRow i).result = .nothing := by
  cases i with
  | perStart | perEnd | reg1Clr | sReset | gcReset => rfl
  | measCs | measNcs | perFetch | idRead | reg1Read | reg2Read => cases h

theorem rdLen_le_nine (i : Instr) : (opRow i).rdLen ≤ 9 := by
  cases i <;> decide

/-- The record of a received response is the one the operation owes for it (R110, R112). -/
theorem recordOf_eq_recordOwed (i : Instr) (b : List Byte) (hb : b.length = (opRow i).rdLen) :
    recordOf (opRow i) (opRow i).rdLen b = recordOwed i b := by
  have hn : (opRow i).rdLen < 16 := (rdLen_le_nine i).trans_lt (by decide)
  rw [recordOf, recordOwed, List.take_of_length_le hb.le, passes_eq_frameValid, decodeResult_eq_fieldsOwed,
    LocalRegs.received_load_whole _ hn hb]
  rfl

/-- Whatever the oracle answers, an operation's transaction accounts for its record. -/
theorem accountsFor_eventOf_outcomeOf (own : BusAddr) (i : Instr) (a : Answer) :
    accountsFor own i (eventOf (framer i own) a) (outcomeOf (framer i own) (opRow i) a) := by
  have hout := framer_out i own
  have hkind := framer_kind i own
  cases hk : (opRow i).kind with
  | w =>
    rw [hk] at hkind
    simp only [eventOf, outcomeOf, hkind, result_of_writing hk]
    cases a with
    | success v => exact ⟨hk, rfl, hout, rfl⟩
    | fail e => exact ⟨hk, rfl, hout, rfl⟩
  | wr =>
    rw [hk] at hkind
    obtain ⟨haddr, hn⟩ := framer_of_reading own hk
    simp only [eventOf, outcomeOf, hkind, haddr, hn]
    cases a with
    | fail e => exact ⟨hk, rfl, hout, rfl, rfl⟩
    | success v =>
      have hlen : (v.toList.take (opRow i).rdLen).length = (opRow i).rdLen :=
        List.length_take_of_le (rdLen_le_nine i)
      exact ⟨hk, rfl, hout, rfl, hlen, recordOf_eq_recordOwed i _ hlen⟩

theorem State.accounted_after {s : State} {i : Instr} {ev : Event} {o : OutcomeRecord} (hs : s.accounted)
    (h : accountsFor s.addr i ev o) : (s.after ev o).accounted :=
  List.rel_append hs (.cons ⟨i, h⟩ .nil)

/-- A step from a sound state gives a sound state at the same `ADDR`. -/
theorem step_keeps_sound {s t : State} (hs : s.sound) (h : step s = .next t) : t.sound ∧ t.addr = s.addr := by
  obtain ⟨hidle, hacc⟩ := hs
  obtain ⟨-, ⟨-, rfl⟩ | ⟨sel, i, rest, -, -, hexec⟩ | ⟨buffer, start, stop, rest, -, -, rfl⟩⟩ := step_cases h
  · exact ⟨⟨hidle, hacc⟩, rfl⟩
  · rw [exec_eq_after] at hexec
    cases hexec
    exact ⟨⟨rfl, State.accounted_after (s := s.withCalls rest) hacc (accountsFor_eventOf_outcomeOf _ i _)⟩, rfl⟩
  · exact ⟨⟨hidle, hacc⟩, rfl⟩

/-- Soundness and `ADDR` are kept along every run. -/
theorem run_keeps_sound {k : Nat} {s t : State} (hs : s.sound) (h : Host.Core.run Sys2Proof.core k s = .next t) :
    t.sound ∧ t.addr = s.addr :=
  run_keeps (inv := fun u => u.sound ∧ u.addr = s.addr)
    (fun _ _ ⟨hsound, haddr⟩ hstep => (step_keeps_sound hsound hstep).imp_right (·.trans haddr)) k ⟨hs, rfl⟩ h

/-- In a list related element by element to another, each element of the second has its partner. -/
theorem exists_mem_of_forall₂ {α β : Type} {R : α → β → Prop} {l : List α} {m : List β} (h : List.Forall₂ R l m) :
    ∀ y ∈ m, ∃ x ∈ l, R x y := by
  induction h with
  | nil => exact List.forall_mem_nil _
  | cons hxy _ ih =>
    rw [List.forall_mem_cons]
    exact ⟨⟨_, List.mem_cons_self, hxy⟩, fun y hy => (ih y hy).imp fun x hx => ⟨List.mem_cons_of_mem _ hx.1, hx.2⟩⟩

/-! ## Measurements are validated before they are handed out (spec/40_checksum.md R112) -/

/-- The fields hold the value as a temperature or as a humidity. -/
def ResultFields.reports (f : ResultFields) (x : Word) : Prop := f.tRaw = some x ∨ f.rhRaw = some x

theorem not_reports_nothing (x : Word) : ¬ ResultFields.reports ⟨none, none, none, none⟩ x := by simp [ResultFields.reports]

/-- Only the three measurement operations owe a temperature or a humidity; they read six bytes with both ranges protected. -/
theorem fieldsOwed_reports {i : Instr} {b : List Byte} {x : Word} (h : (fieldsOwed i b).reports x) :
    (opRow i).rdLen = 6 ∧ (opRow i).triples = measTriples ∧ fieldsOwed i b = ⟨fieldAt b 0, fieldAt b 3, none, none⟩ := by
  cases i with
  | measCs | measNcs | perFetch => exact ⟨rfl, rfl, rfl⟩
  | idRead => unfold fieldsOwed at h; split at h <;> simp_all [ResultFields.reports]
  | perStart | perEnd | reg1Read | reg2Read | reg1Clr | sReset | gcReset => simp [fieldsOwed, ResultFields.reports] at h

/-- A record owed for a response reports a value only if the response is valid and owes that value. -/
theorem recordOwed_reports {i : Instr} {b : List Byte} {x : Word} (h : (recordOwed i b).fields.reports x) :
    frameValid (opRow i).triples b = true ∧ recordOwed i b = successRecord (fieldsOwed i b) ∧ (fieldsOwed i b).reports x := by
  unfold recordOwed at h ⊢
  split at h
  next hv => exact ⟨hv, if_pos hv, h⟩
  next => exact absurd h (not_reports_nothing x)

/-- A valid measurement frame: each range's checksum by the pseudocode is its trailing byte (R76, R110). -/
theorem frameValid_measTriples_iff (b0 b1 b2 b3 b4 b5 : Byte) :
    frameValid measTriples [b0, b1, b2, b3, b4, b5] = true ↔
      computeDoc [b0, b1] 0 2 = b2.toNat ∧ computeDoc [b3, b4] 0 2 = b5.toNat := by
  have hsplit : frameValid measTriples [b0, b1, b2, b3, b4, b5] =
      (some b2.toNat == some (computeDoc [b0, b1] 0 2) && (some b5.toNat == some (computeDoc [b3, b4] 0 2) && true)) := rfl
  rw [hsplit, Bool.and_true, Bool.and_eq_true, beq_iff_eq, beq_iff_eq, Option.some_inj, Option.some_inj,
    eq_comm, @eq_comm _ b5.toNat]

theorem eq_six_bytes_of_length {b : List Byte} (h : b.length = 6) : ∃ b0 b1 b2 b3 b4 b5, b = [b0, b1, b2, b3, b4, b5] :=
  match b, h with
  | [_, _, _, _, _, _], _ => ⟨_, _, _, _, _, _, rfl⟩

/-- An operation's transaction accounts for a reported value only as a read of six valid bytes whose fields the record holds. -/
theorem accountsFor_reports {own : BusAddr} {i : Instr} {ev : Event} {o : OutcomeRecord} {x : Word}
    (h : accountsFor own i ev o) (hx : o.fields.reports x) :
    ∃ out b0 b1 b2 b3 b4 b5, ev = .wr own out 6 (.bytes [b0, b1, b2, b3, b4, b5]) ∧
      computeDoc [b0, b1] 0 2 = b2.toNat ∧ computeDoc [b3, b4] 0 2 = b5.toNat ∧
      o = successRecord { tRaw := some (be16 b0 b1), rhRaw := some (be16 b3 b4), id := none, reg := none } := by
  cases ev with
  | w addr out result =>
    cases result <;> obtain ⟨-, -, -, rfl⟩ := h <;> exact absurd hx (not_reports_nothing x)
  | wr addr out n result =>
    cases result with
    | fail e =>
      obtain ⟨-, -, -, -, rfl⟩ := h
      exact absurd hx (not_reports_nothing x)
    | bytes b =>
      obtain ⟨-, rfl, -, rfl, hlen, rfl⟩ := h
      obtain ⟨hvalid, hrec, howed⟩ := recordOwed_reports hx
      obtain ⟨hn, htriples, hfields⟩ := fieldsOwed_reports howed
      rw [hn] at hlen
      obtain ⟨b0, b1, b2, b3, b4, b5, rfl⟩ := eq_six_bytes_of_length hlen
      rw [htriples, frameValid_measTriples_iff] at hvalid
      obtain ⟨h2, h5⟩ := hvalid
      exact ⟨out, b0, b1, b2, b3, b4, b5, by rw [hn], h2, h5, by rw [hrec, hfields]; rfl⟩

/-- Settles O47 (R112): a run keeps the account, so a reported value has its transaction in the history, and a transaction
accounts for one only as a valid measurement frame. -/
theorem noMeasurementIsReportedUnvalidated : Obligations.NoMeasurementIsReportedUnvalidated := by
  refine ⟨by decide, fun k s t hs hrun o ho x hx => ?_⟩
  obtain ⟨⟨-, hacc⟩, haddr⟩ := run_keeps_sound hs hrun
  obtain ⟨ev, hev, i, hi⟩ := exists_mem_of_forall₂ hacc o ho
  rw [haddr] at hi
  obtain ⟨out, b0, b1, b2, b3, b4, b5, rfl, h2, h5, hrec⟩ := accountsFor_reports hi hx
  exact ⟨out, b0, b1, b2, b3, b4, b5, hev, h2, h5, hrec⟩

end Sys2Proof.Machine

namespace Sys2Proof.Machine

/-! ## Frames and requests are inverted (spec/41_framer.md R120, R121, R124) -/

/-- The inverse of `frame` is `out[0]*256 + out[1]` (R124). -/
theorem frame_inverse (code : Word) :
    (code.extractLsb' 8 8).toNat * 256 + (code.extractLsb' 0 8).toNat = code.toNat := by
  simp only [BitVec.extractLsb'_toNat, Nat.shiftRight_eq_div_pow]
  omega

theorem frame_injective : Function.Injective frame := by
  intro code code' h
  simp only [frame, List.cons.injEq, and_true] at h
  obtain ⟨hhi, hlo⟩ := h
  apply BitVec.eq_of_toNat_eq
  rw [← frame_inverse code, ← frame_inverse code', hhi, hlo]

/-- Decoding an operation's frame gives the operation that stands for the frame (R81). -/
theorem decode_encode (i : Instr) : decode (encode i) = .ok (frameClass i) := by
  cases i with
  | gcReset => exact if_pos rfl
  | measCs | measNcs | perFetch | perStart | perEnd | idRead | reg1Read | reg2Read | reg1Clr | sReset => rfl

theorem frameClass_eq (i : Instr) : frameClass i = if i = .reg2Read then .reg1Read else i := by
  cases i <;> rfl

/-- Two operations with one frame are the same operation or the two status reads. -/
theorem eq_or_statusReads_of_encode_eq {i j : Instr} (h : encode i = encode j) :
    i = j ∨ (i = .reg1Read ∧ j = .reg2Read) ∨ (i = .reg2Read ∧ j = .reg1Read) := by
  have hclass : frameClass i = frameClass j := by
    simpa [decode_encode] using congrArg decode h
  rw [frameClass_eq, frameClass_eq] at hclass
  split at hclass <;> split at hclass
  next hi hj => exact .inl (hi.trans hj.symm)
  next hi _ => exact .inr (.inr ⟨hi, hclass.symm⟩)
  next _ hj => exact .inr (.inl ⟨hclass, hj⟩)
  next => exact .inl hclass

/-- Settles O4 (R124): a code is recovered from its two bytes, so different codes have different frames, and a request carries its
operation's frame, which only the two status reads share. -/
theorem frameIsInvertedByItsTwoBytes : Obligations.FrameIsInvertedByItsTwoBytes := by
  refine ⟨fun code => ⟨_, _, rfl, frame_inverse code⟩, fun _ _ h => frame_injective h, List.Nodup.map frame_injective (by decide),
    fun _ => rfl, fun i j own h => eq_or_statusReads_of_encode_eq ?_⟩
  rw [← framer_out i own, ← framer_out j own, h]

end Sys2Proof.Machine

namespace Sys2Proof.Machine

/-! ## Fields are assembled from two bytes (spec/42_decoder.md R130, R131) -/

/-- The sum of R130 never exceeds 65535, so the word holds it whole. -/
@[simp] theorem be16_toNat (hi lo : Byte) : (be16 hi lo).toNat = hi.toNat * 256 + lo.toNat := by
  have hhi := hi.isLt
  have hlo := lo.isLt
  exact Nat.mod_eq_of_lt (by omega)

theorem be16_toNat_div (hi lo : Byte) : (be16 hi lo).toNat / 256 = hi.toNat := by
  have hlo := lo.isLt
  rw [be16_toNat]
  omega

theorem be16_toNat_mod (hi lo : Byte) : (be16 hi lo).toNat % 256 = lo.toNat := by
  have hlo := lo.isLt
  rw [be16_toNat]
  omega

/-- The two bytes a frame splits a word into are the two that `be16` joins to it. -/
theorem be16_extractLsb' (raw : Word) : be16 (raw.extractLsb' 8 8) (raw.extractLsb' 0 8) = raw :=
  BitVec.eq_of_toNat_eq ((be16_toNat _ _).trans (frame_inverse raw))

theorem bytes_eq_of_be16_eq {hi lo hi' lo' : Byte} (h : be16 hi lo = be16 hi' lo') : hi = hi' ∧ lo = lo' := by
  constructor <;> apply BitVec.eq_of_toNat_eq
  · rw [← be16_toNat_div hi lo, h, be16_toNat_div]
  · rw [← be16_toNat_mod hi lo, h, be16_toNat_mod]

/-- Settles O8 (R131): quotient and remainder by 256 give back the two bytes of `be16`, and every word is `be16` of its two bytes. -/
theorem fieldAssemblyIsABijection : Obligations.FieldAssemblyIsABijection := by
  refine ⟨be16_toNat, fun raw => ⟨raw.extractLsb' 8 8, raw.extractLsb' 0 8, be16_extractLsb' raw, ?_, ?_⟩,
    fun _ _ _ _ => bytes_eq_of_be16_eq⟩
  · rw [← be16_toNat_div, be16_extractLsb']
  · rw [← be16_toNat_mod, be16_extractLsb']

end Sys2Proof.Machine

namespace Sys2Proof.Machine

/-! ## The operations by their rules (spec/43_operations.md R150 to R166) -/

/-- A write-only operation protects nothing and owes no value, whatever bytes stand for its response (R154). -/
theorem recordOwed_of_writing {i : Instr} (h : (opRow i).kind = .w) (b : List Byte) :
    recordOwed i b = successRecord ⟨none, none, none, none⟩ := by
  cases i with
  | perStart | perEnd | reg1Clr | sReset | gcReset => rfl
  | measCs | measNcs | perFetch | idRead | reg1Read | reg2Read => cases h

/-- On a successful transaction the record is the one owed for the bytes the row asks for, none where it asks for none. -/
theorem outcomeOf_success (own : BusAddr) (i : Instr) (v : Bytes9) :
    outcomeOf (framer i own) (opRow i) (.success v) = recordOwed i (v.toList.take (opRow i).rdLen) := by
  have hkind := framer_kind i own
  cases hk : (opRow i).kind with
  | w =>
    simp only [outcomeOf, hkind, hk, result_of_writing hk, recordOwed_of_writing hk]
    rfl
  | wr =>
    obtain ⟨-, hn⟩ := framer_of_reading own hk
    simp only [outcomeOf, hkind, hk, hn]
    exact recordOf_eq_recordOwed i _ (List.length_take_of_le (rdLen_le_nine i))

/-- An operation whose transaction fails ends with the transport record (R182). -/
theorem exec_of_fail {s : State} {e : TransportErr} (h : s.nextAnswer = .fail e) (i : Instr) :
    exec i s = .next (s.after (eventOf (framer i s.addr) (.fail e)) (transportRecord e)) := by
  rw [exec_eq_after, h]
  rfl

/-- An operation whose transaction succeeds ends with the record its response owes (R110, R153). -/
theorem exec_of_success {s : State} {v : Bytes9} (h : s.nextAnswer = .success v) (i : Instr) :
    exec i s = .next (s.after (eventOf (framer i s.addr) (.success v)) (recordOwed i (v.toList.take (opRow i).rdLen))) := by
  rw [exec_eq_after, h, outcomeOf_success]

/-- A frame with one protected range is valid when the pseudocode's checksum of the range is the byte behind it (R110). -/
theorem frameValid_singleton_iff {t : Triple} {b : List Byte} {x : Byte} (hx : b[t.k]? = some x) :
    frameValid [t] b = true ↔ computeDoc b t.s t.e = x.toNat := by
  simp [frameValid, hx, @eq_comm _ x.toNat]

/-- `exec_of_success` for a rule that spells the validity of its frame as a condition of its own. -/
theorem exec_of_success_of_valid_iff {s : State} {v : Bytes9} (h : s.nextAnswer = .success v) (i : Instr) {p : Prop} [Decidable p]
    (hvalid : frameValid (opRow i).triples (v.toList.take (opRow i).rdLen) = true ↔ p) :
    exec i s = .next (s.after (eventOf (framer i s.addr) (.success v))
      (if p then successRecord (fieldsOwed i (v.toList.take (opRow i).rdLen)) else checksumRecord)) := by
  rw [exec_of_success h, recordOwed, if_congr hvalid rfl rfl]

/-! ### Each operation's next state -/

/-- Settles O23 (R156, R157, R158): the three rows differ in their code only, so each owes the same record for its six bytes. -/
theorem measurementReadsRunByTheirRules : Obligations.MeasurementReadsRunByTheirRules := by
  intro s p hp
  simp only [List.mem_cons, List.not_mem_nil, or_false] at hp
  cases h : s.nextAnswer with
  | fail e => obtain rfl | rfl | rfl := hp <;> exact exec_of_fail h _
  | success v =>
    -- its ranges, `[0, 2)` of two bytes each, are the slices `[0, 2)` and `[3, 5)` of the six
    have hvalid := frameValid_measTriples_iff v.b0 v.b1 v.b2 v.b3 v.b4 v.b5
    obtain rfl | rfl | rfl := hp <;> exact exec_of_success_of_valid_iff h _ hvalid

/-- Settles O24 (R161): the one range of the row is the first eight bytes, checked against the ninth. -/
theorem identificationReadRunsByItsRule : Obligations.IdentificationReadRunsByItsRule := by
  intro s
  cases h : s.nextAnswer with
  | fail e => exact exec_of_fail h .idRead
  | success v => exact exec_of_success_of_valid_iff h .idRead (frameValid_singleton_iff (t := ⟨0, 8, 8⟩) rfl)

/-- Settles O25 (R162, R163): both reads send the one frame and check the one range; only the field they owe differs. -/
theorem statusReadsRunByTheirRules : Obligations.StatusReadsRunByTheirRules := by
  intro s
  cases h : s.nextAnswer with
  | fail e => exact ⟨exec_of_fail h .reg1Read, exec_of_fail h .reg2Read⟩
  | success v =>
    have hvalid : frameValid statusTriples [v.b0, v.b1, v.b2] = true ↔ computeDoc [v.b0, v.b1, v.b2] 0 2 = v.b2.toNat :=
      frameValid_singleton_iff rfl
    exact ⟨exec_of_success_of_valid_iff h .reg1Read hvalid, exec_of_success_of_valid_iff h .reg2Read hvalid⟩

/-- Settles O26 (R159, R160, R164, R165): a write-only row has no triple to fail and no field to owe, so success is its one record. -/
theorem writeOnlyCommandsRunByTheirRules : Obligations.WriteOnlyCommandsRunByTheirRules := by
  intro s p hp
  simp only [List.mem_cons, List.not_mem_nil, or_false] at hp
  cases h : s.nextAnswer with
  | fail e => obtain rfl | rfl | rfl | rfl := hp <;> exact exec_of_fail h _
  | success v => obtain rfl | rfl | rfl | rfl := hp <;> exact exec_of_success h _

/-- Settles O27 (R166): the framer puts the two open parameters into the request, and nothing depends on their values. -/
theorem generalCallResetRunsByItsRule : Obligations.GeneralCallResetRunsByItsRule := by
  intro s
  cases h : s.nextAnswer with
  | fail e => exact exec_of_fail h .gcReset
  | success v => exact exec_of_success h .gcReset

/-! ### What every outcome has in common -/

/-- Which fields a response owes is the operation's row alone (R75, R153). -/
theorem fieldsOwed_isSome (i : Instr) (v : Bytes9) :
    let f := fieldsOwed i (v.toList.take (opRow i).rdLen)
    f.tRaw.isSome = decide (i ∈ [Instr.measCs, .measNcs, .perFetch]) ∧
    f.rhRaw.isSome = decide (i ∈ [Instr.measCs, .measNcs, .perFetch]) ∧
    f.id.isSome = decide (i = .idRead) ∧
    f.reg.isSome = decide (i ∈ [Instr.reg1Read, .reg2Read]) := by
  cases i <;> exact ⟨rfl, rfl, rfl, rfl⟩

theorem successRecord_fieldsOwed_legal (i : Instr) (v : Bytes9) :
    (successRecord (fieldsOwed i (v.toList.take (opRow i).rdLen))).legal = true := by
  cases i <;> rfl

/-- Every operation ends, with one of three records: the transport failure of its answer, the checksum failure, or the success
that owes its row's fields for its answer (R151, R153). -/
theorem exec_outcome_cases (i : Instr) (s : State) :
    ∃ ev o, exec i s = .next (s.after ev o) ∧
      ((∃ e, o = transportRecord e) ∨ o = checksumRecord ∨
        ∃ v, s.nextAnswer = .success v ∧ o = successRecord (fieldsOwed i (v.toList.take (opRow i).rdLen))) := by
  cases h : s.nextAnswer with
  | fail e => exact ⟨_, _, exec_of_fail h i, .inl ⟨e, rfl⟩⟩
  | success v =>
    refine ⟨_, _, exec_of_success h i, .inr ?_⟩
    unfold recordOwed
    split
    next => exact .inr ⟨v, rfl, rfl⟩
    next => exact .inl rfl

/-- Settles O30 (R151, R189): each of the three records an operation can end with is legal. -/
theorem everyOperationEndsInOneLegalOutcome : Obligations.EveryOperationEndsInOneLegalOutcome := by
  intro i s
  obtain ⟨ev, o, hexec, ho⟩ := exec_outcome_cases i s
  refine ⟨ev, o, hexec, ?_⟩
  obtain ⟨e, rfl⟩ | rfl | ⟨v, -, rfl⟩ := ho
  · rfl
  · rfl
  · exact successRecord_fieldsOwed_legal i v

/-- Settles O31 (R153): each of the three records has its own kind, so a kind leaves one of them. -/
theorem recordsCarryExactlyTheFieldsOfTheirOperation : Obligations.RecordsCarryExactlyTheFieldsOfTheirOperation := by
  intro i s
  obtain ⟨ev, o, hexec, ho⟩ := exec_outcome_cases i s
  refine ⟨ev, o, hexec, ?_⟩
  obtain ⟨e, rfl⟩ | rfl | ⟨v, hv, rfl⟩ := ho
  · exact ⟨nofun, fun _ => ⟨e, rfl⟩, nofun⟩
  · exact ⟨fun _ => rfl, nofun, nofun⟩
  · obtain ⟨ht, hrh, hid, hreg⟩ := fieldsOwed_isSome i v
    refine ⟨nofun, nofun, fun _ => ⟨⟨v, hv, rfl⟩, ?_⟩⟩
    simp only [successRecord, ht, hrh, hid, hreg, decide_eq_true_iff, and_self]

/-- Settles O34 (R155): the event and the record of `exec_eq_after` name nothing of the state but `ADDR` and the answer. -/
theorem outcomeDependsOnlyOnAddrAndTheAnswer : Obligations.OutcomeDependsOnlyOnAddrAndTheAnswer := by
  intro i s s' haddr hanswer
  refine ⟨_, _, exec_eq_after i s, ?_⟩
  rw [haddr, hanswer]
  exact exec_eq_after i s'

end Sys2Proof.Machine

namespace Sys2Proof.Machine

/-! ## The two failures (spec/60_exceptions.md R181, R182) -/

/-- A frame fails validation exactly when one of its protected ranges does not match (R110). -/
theorem frameValid_eq_false_iff (triples : List Triple) (b : List Byte) :
    frameValid triples b = false ↔ ∃ t ∈ triples, (b[t.k]?).map BitVec.toNat ≠ some (computeDoc b t.s t.e) := by
  simp only [frameValid, List.all_eq_false, beq_iff_eq, ne_eq]

/-- A received response is owed a checksum failure exactly when its frame fails validation. -/
theorem recordOwed_kind_eq_checksumError_iff (i : Instr) (b : List Byte) :
    (recordOwed i b).kind = .checksumError ↔ frameValid (opRow i).triples b = false := by
  unfold recordOwed
  split
  next h => rw [h]; exact iff_of_false nofun nofun
  next h => exact iff_of_true rfl (Bool.eq_false_of_not_eq_true h)

/-- Only a frame that fails validation is owed a checksum failure, whose record is then the whole answer (R181). -/
theorem recordOwed_eq_checksumRecord {i : Instr} {b : List Byte} (h : (recordOwed i b).kind = .checksumError) :
    recordOwed i b = checksumRecord := by
  rw [recordOwed, (recordOwed_kind_eq_checksumError_iff i b).1 h]
  rfl

/-- A received response is never owed a transport failure (R182). -/
theorem recordOwed_kind_ne_transportError (i : Instr) (b : List Byte) : (recordOwed i b).kind ≠ .transportError := by
  unfold recordOwed
  split <;> exact nofun

/-- Settles O32 (R181): a failed transaction ends with the other failure, and a response is owed this one exactly when a range
does not match. -/
theorem checksumErrorExactlyOnAMismatch : Obligations.ChecksumErrorExactlyOnAMismatch := by
  intro i s
  cases h : s.nextAnswer with
  | fail e => exact ⟨_, _, exec_of_fail h i, iff_of_false nofun nofun, nofun⟩
  | success v =>
    refine ⟨_, _, exec_of_success h i, ?_, recordOwed_eq_checksumRecord⟩
    rw [recordOwed_kind_eq_checksumError_iff, frameValid_eq_false_iff]
    simp only [Answer.success.injEq, exists_eq_left']

/-- Settles O33 (R182): the record of a failed transaction holds its error, and no response is owed a transport failure. -/
theorem transportErrorExactlyOnAFailedTransaction : Obligations.TransportErrorExactlyOnAFailedTransaction := by
  intro i s
  cases h : s.nextAnswer with
  | fail e => exact ⟨_, _, exec_of_fail h i, iff_of_true rfl ⟨e, rfl⟩, by rintro _ ⟨⟩; rfl⟩
  | success v => exact ⟨_, _, exec_of_success h i, iff_of_false (recordOwed_kind_ne_transportError i _) nofun, nofun⟩

/-! ## Refusals (spec/60_exceptions.md R184) -/

/-- An idle block serves the caller's next request, on the state whose requests are the rest. -/
theorem step_of_idle {s : State} (hs : s.sequencer = .idle) {req : Request} {rest : List Request}
    (hc : s.calls = req :: rest) : step s = serveRequest req (s.withCalls rest) := by
  simp only [step, hs, serveNext, hc]

theorem step_of_idle_of_no_request {s : State} (hs : s.sequencer = .idle) (hc : s.calls = []) : step s = .next s := by
  simp only [step, hs, serveNext, hc]

theorem step_of_running {s : State} {regs : LocalRegs} (hs : s.sequencer = .running regs) {req : Request}
    {rest : List Request} (hc : s.calls = req :: rest) : step s = .refused .requestWhileBusy := by
  simp only [step, hs, stepWhileRunning, hc]

theorem step_of_running_of_no_request {s : State} {regs : LocalRegs} (hs : s.sequencer = .running regs)
    (hc : s.calls = []) : step s = .fault .collaboratorSilent := by
  simp only [step, hs, stepWhileRunning, hc]

/-- The caller port refuses exactly the selectors that name no operation, by name (R82). -/
theorem serveOperation_eq_refused_iff (sel : BitVec 4) (s : State) (r : Refusal) :
    serveOperation sel s = .refused r ↔ 11 ≤ sel.toNat ∧ r = .unknownSelector sel := by
  obtain ⟨-, -, -, hrejected⟩ := selectorNamesExactlyTheElevenOperations
  rw [hrejected, serveOperation]
  cases h : decodeSelector sel with
  | ok i => simp [exec_eq_run]
  | error e => simp [decodeSelector_error h, eq_comm]

/-- The CRC port refuses exactly the ranges outside the contract of `compute` (R48). -/
theorem serveCrc_eq_refused_iff (buffer : List Byte) (start stop : Int) (s : State) (r : Refusal) :
    serveCrc buffer start stop s = .refused r ↔
      ¬ (0 ≤ start ∧ start ≤ stop ∧ stop ≤ (buffer.length : Int)) ∧ r = .crcRangeOutsideContract := by
  have hcontract : rangeOk buffer.length start stop = true ↔ 0 ≤ start ∧ start ≤ stop ∧ stop ≤ (buffer.length : Int) := by
    simp only [rangeOk, Bool.and_eq_true, decide_eq_true_eq, and_assoc]
  rw [← hcontract, serveCrc]
  split
  next h => simp [h]
  next h => simp [h, eq_comm]

/-- Settles O39 (R184): by the sequencer and the caller's next request, a step is one port's service, a refusal of a busy block,
or no refusal at all. -/
theorem exactlyThreeSituationsAreRefused : Obligations.ExactlyThreeSituationsAreRefused := by
  intro s r
  cases hs : s.sequencer with
  | idle =>
    cases hc : s.calls with
    | nil => simp [step_of_idle_of_no_request hs hc]
    | cons req rest =>
      rw [step_of_idle hs hc]
      cases req with
      | op sel => simp [serveRequest, serveOperation_eq_refused_iff]
      | crc buffer start stop => simp [serveRequest, serveCrc_eq_refused_iff]
  | running regs =>
    cases hc : s.calls with
    | nil => simp [step_of_running_of_no_request hs hc]
    | cons req rest => simp [step_of_running hs hc, eq_comm]

/-! ## Statuses that are never reported (spec/60_exceptions.md R183) -/

/-- The record's status, where it has one, is one of the two the block produces. -/
def OutcomeRecord.statusProduced (o : OutcomeRecord) : Prop := ∀ c, o.status = some c → c = .success ∨ c = .checksumError

/-- Every operation's record has a status the block produces: a transport failure has none, and the other two endings have the two
(R153). -/
theorem exec_statusProduced (i : Instr) (s : State) : ∃ ev o, exec i s = .next (s.after ev o) ∧ o.statusProduced := by
  obtain ⟨ev, o, hexec, ho⟩ := exec_outcome_cases i s
  refine ⟨ev, o, hexec, ?_⟩
  obtain ⟨e, rfl⟩ | rfl | ⟨v, -, rfl⟩ := ho
  · exact nofun
  · rintro _ ⟨⟩; exact .inr rfl
  · rintro _ ⟨⟩; exact .inl rfl

/-- Settles O44 (R183): of the three things a step can do only an operation adds a record. -/
theorem onlySuccessAndChecksumErrorAreReported : Obligations.OnlySuccessAndChecksumErrorAreReported := by
  intro s t h o ho
  obtain ⟨-, ⟨-, rfl⟩ | ⟨sel, i, rest, -, -, hexec⟩ | ⟨buffer, start, stop, rest, -, -, rfl⟩⟩ := step_cases h
  · exact .inl ho
  · obtain ⟨ev, o', hexec', hstatus⟩ := exec_statusProduced i (s.withCalls rest)
    obtain rfl : (s.withCalls rest).after ev o' = t := by simpa [hexec'] using hexec
    obtain hold | rfl : o ∈ s.outcomes ∨ o = o' := by simpa using ho
    · exact .inl hold
    · exact .inr hstatus
  · exact .inl ho

end Sys2Proof.Machine

namespace Sys2Proof.Machine

/-! ## Bytes decode to an operation exactly when they are its frame (spec/30_encoding.md R81, R83) -/

/-- A frame is its code's two bytes, most significant first (R120). -/
theorem frame_append (hi lo : Byte) : frame (hi ++ lo) = [hi, lo] := by
  rw [frame, BitVec.extractLsb'_append_eq_left, BitVec.extractLsb'_append_eq_right]

/-- An operation with a command code is sent as the code's frame (R73). -/
theorem encode_of_code {i : Instr} {code : Word} (h : (opRow i).code = some code) : encode i = frame code := by
  simp only [encode, h]

theorem encode_of_decode {out : List Byte} {i : Instr} (h : decode out = .ok i) : encode i = out := by
  unfold decode at h
  split at h
  next hi lo => rw [encode_of_code (decodeCode_ok h), frame_append]
  next b =>
    split at h
    next hb => cases h; rw [hb]; rfl
    next => cases h
  next => cases h

/-- What is decoded is the operation that stands for its frame, never `REG2.READ`. -/
theorem frameClass_of_decode {out : List Byte} {i : Instr} (h : decode out = .ok i) : frameClass i = i := by
  have hi := decode_encode i
  rw [encode_of_decode h, h] at hi
  exact (Except.ok.inj hi).symm

theorem decode_eq_ok_iff (out : List Byte) (i : Instr) : decode out = .ok i ↔ frameClass i = i ∧ out = encode i := by
  constructor
  · intro h
    exact ⟨frameClass_of_decode h, (encode_of_decode h).symm⟩
  · rintro ⟨hclass, rfl⟩
    rw [decode_encode, hclass]

/-- Settles O3 (R81): the decoder inverts the encoder up to the frame the two status reads share, and reads nothing but frames. -/
theorem decodeAndEncodeAgree : Obligations.DecodeAndEncodeAgree :=
  ⟨decode_encode, fun _ _ => encode_of_decode, fun _ _ => eq_or_statusReads_of_encode_eq⟩

/-- Only the general call is sent to another address than the block's own (R122). -/
theorem framer_addr (i : Instr) (own : BusAddr) :
    (framer i own).addr = if i = .gcReset then Config.gcAddress else own := by
  cases i <;> rfl

/-- Traffic is an operation's when its bytes decode to the operation and its address is the one the operation's request uses. -/
theorem decodeTraffic_eq_some_iff (own addr : BusAddr) (out : List Byte) (i : Instr) :
    decodeTraffic own addr out = some i ↔ decode out = .ok i ∧ addr = (framer i own).addr := by
  unfold decodeTraffic
  split
  next e h => simp [h]
  next h =>
    rw [h, Option.ite_none_right_eq_some, Option.some_inj, Except.ok.injEq, and_comm]
    exact and_congr_right fun hi => by rw [← hi]; rfl
  next j hj h =>
    rw [h, Option.ite_none_right_eq_some, Option.some_inj, Except.ok.injEq, and_comm]
    exact and_congr_right fun hi => by rw [← hi, framer_addr, if_neg hj]

/-- Settles O5 (R81): the bytes say which operation it is, the address whether it is the block's. -/
theorem trafficDecodesByAddressAndFrame : Obligations.TrafficDecodesByAddressAndFrame := by
  intro own addr out i
  rw [decodeTraffic_eq_some_iff, decode_eq_ok_iff, and_assoc]

/-- `2C1C` is the code of no operation (R72). -/
theorem opRow_code_ne_0x2C1C (i : Instr) : (opRow i).code ≠ some 0x2C1C := by
  cases i <;> decide

/-- Settles O2 (R72, R74, R83): seven of the frames are their operations' encodings, and `2C 1C` is in no row. -/
theorem framesOfEachFamilyDecode : Obligations.FramesOfEachFamilyDecode :=
  ⟨decode_encode .measCs, decode_encode .perStart, decode_encode .idRead, decode_encode .reg1Read, decode_encode .reg1Clr,
    decode_encode .sReset, decode_encode .gcReset, decodeCode_error_iff.2 opRow_code_ne_0x2C1C⟩

/-! ## Requests are served one by one (spec/20_memory.md R55; spec/10_state.md R27) -/

/-- Settles O36 (R27): an idle block with a request serves it, and a selector that names an operation is served by its meaning. -/
theorem stepRunsTheRequestedOperation : Obligations.StepRunsTheRequestedOperation := by
  intro s sel i rest hs hc hsel
  rw [step_of_idle hs hc]
  simp only [serveRequest, serveOperation, hsel]
  rfl

/-- An idle block asked for an operation by its selector makes the operation's transaction and hands out its record. -/
theorem step_of_operation {s : State} {i : Instr} {rest : List Request} (hs : s.sequencer = .idle)
    (hc : s.calls = .op (selector i) :: rest) :
    step s = .next ((s.withCalls rest).after (eventOf (framer i s.addr) s.nextAnswer)
      (outcomeOf (framer i s.addr) (opRow i) s.nextAnswer)) :=
  (stepRunsTheRequestedOperation s (selector i) i rest hs hc (decodeSelector_selector i)).trans (exec_eq_after i _)

/-- Settles O46 (R55, R152): of the three things a step can do, only an operation adds to the account, and its transaction accounts
for its record. -/
theorem everyStepKeepsTheAccount : Obligations.EveryStepKeepsTheAccount := fun _ _ => step_keeps_sound

/-- Settles O48 (R55, R225), by induction on the requested operations: each step serves the first and leaves an idle state whose
requests are the rest. -/
theorem transactionsFollowTheOrderOfTheRequests : Obligations.TransactionsFollowTheOrderOfTheRequests := by
  intro ops later s hs hc
  induction ops generalizing s with
  | nil => exact ⟨s, [], [], rfl, by simp, by simp, .nil, rfl, rfl, hc, hs, rfl, rfl⟩
  | cons i ops ih =>
    have hstep := step_of_operation hs hc
    have haccounts := accountsFor_eventOf_outcomeOf s.addr i s.nextAnswer
    generalize eventOf (framer i s.addr) s.nextAnswer = ev at hstep haccounts
    generalize outcomeOf (framer i s.addr) (opRow i) s.nextAnswer = o at hstep haccounts
    obtain ⟨t, events, records, hrun, hhistory, houtcomes, hrest, hevents, hrecords, hcalls, hidle, haddr, hcrc⟩ :=
      ih (s := (s.withCalls _).after ev o) rfl rfl
    exact ⟨t, ev :: events, o :: records, (run_of_step_next hstep).trans hrun, by simp [hhistory], by simp [houtcomes],
      .cons haccounts hrest, by simp [hevents], by simp [hrecords], hcalls, hidle, haddr, hcrc⟩

/-- With a success laid out for the transaction, the record is the one owed for the bytes read. -/
theorem step_of_operation_of_success {s : State} {i : Instr} {rest : List Request} {v : Bytes9} {more : List Answer}
    (hs : s.sequencer = .idle) (hc : s.calls = .op (selector i) :: rest) (ha : s.answers = .success v :: more) :
    step s = .next ((s.withCalls rest).after (eventOf (framer i s.addr) (.success v))
      (recordOwed i (v.toList.take (opRow i).rdLen))) := by
  have hv : s.nextAnswer = .success v := by simp only [State.nextAnswer, ha]
  rw [step_of_operation hs hc, hv, outcomeOf_success]

/-- Settles O43 (R59, R163): the second read is answered by the second answer, since the first consumed its own. -/
theorem statusReadsBackToBackUseTwoTransactions : Obligations.StatusReadsBackToBackUseTwoTransactions := by
  intro s v w rest hs hc ha
  have hfirst := step_of_operation_of_success (i := .reg1Read) hs hc ha
  have hsecond := step_of_operation_of_success (i := .reg2Read) (rest := []) (v := w) (more := rest)
    (s := (s.withCalls [.op 7]).after (.wr s.addr [0xF3, 0x2D] 3 (.bytes [v.b0, v.b1, v.b2]))
      (recordOwed .reg1Read [v.b0, v.b1, v.b2])) rfl rfl (congrArg List.tail ha)
  refine ⟨_, _, _, (run_of_step_next hfirst).trans ((run_of_step_next hsecond).trans rfl), ?_, ?_, rfl, rfl⟩
  · exact List.append_assoc _ _ _
  · exact List.append_assoc _ _ _

/-- Settles O49 (R28, R191): an operation leaves `ADDR` and the next answer behind whatever it was answered, and the next one reads
nothing else. -/
theorem earlierOperationsLeaveNoTrace : Obligations.EarlierOperationsLeaveNoTrace := by
  intro s first other i a a' b rest
  exact ⟨_, _, _, _, _, _, exec_eq_after first _, exec_eq_after i _, exec_eq_after other _, exec_eq_after i _, rfl, rfl⟩

/-- Settles O29 (R152): an operation's next state is `State.after` its transaction, field by field. -/
theorem operationsLeaveEverythingElseUnchanged : Obligations.OperationsLeaveEverythingElseUnchanged := by
  intro i s t h
  rw [exec_eq_after] at h
  cases h
  exact ⟨rfl, rfl, rfl, rfl, rfl, rfl, ⟨_, rfl⟩, ⟨_, rfl⟩⟩

/-- Settles O38 (R51, R212): of the three things a step can do, only an operation adds an event or a record. -/
theorem noTransactionWithoutARequest : Obligations.NoTransactionWithoutARequest := by
  refine ⟨fun s t h => ?_, fun s => step_of_idle_of_no_request⟩
  obtain ⟨-, ⟨-, rfl⟩ | ⟨sel, i, rest, hc, -, hexec⟩ | ⟨buffer, start, stop, rest, -, -, rfl⟩⟩ := step_cases h
  · exact .inl ⟨rfl, rfl⟩
  · rw [exec_eq_after] at hexec
    cases hexec
    exact .inr ⟨sel, rest, _, _, hc, rfl, rfl, rfl⟩
  · exact .inl ⟨rfl, rfl⟩

/-- Settles O37 (R87): the load puts in front the request whose selector reads back as the word's operation. -/
theorem stepRunsTheOperationOfATableWord : Obligations.StepRunsTheOperationOfATableWord := by
  intro s nbits w i hs hw
  have hcalls : (s.withFetchWord nbits w).calls = .op (selector i) :: s.calls := by
    simp only [State.withFetchWord, requestOfTableWord, hw]
  rw [stepRunsTheRequestedOperation _ _ i s.calls rfl hcalls (decodeSelector_selector i)]
  cases s
  cases hs
  rfl

/-- Whatever is requested, serving it is no fault. -/
theorem serveRequest_ne_fault (req : Request) (s : State) (f : Fault) : serveRequest req s ≠ .fault f := by
  cases req with
  | op sel =>
    simp only [serveRequest, serveOperation]
    split
    next i _ => rw [exec_eq_run]; exact nofun
    next => exact nofun
  | crc buffer start stop =>
    simp only [serveRequest, serveCrc]
    split <;> exact nofun

/-- Settles O40 (U20): by the sequencer and the caller's next request; a served request goes on or is refused. -/
theorem stepFaultsExactlyInsideAnUnfinishedOperation : Obligations.StepFaultsExactlyInsideAnUnfinishedOperation := by
  intro s f
  cases hs : s.sequencer with
  | idle =>
    cases hc : s.calls with
    | nil => simp [step_of_idle_of_no_request hs hc]
    | cons req rest => simp [step_of_idle hs hc, serveRequest_ne_fault]
  | running regs =>
    cases hc : s.calls with
    | nil => simp [step_of_running_of_no_request hs hc]
    | cons req rest => simp [step_of_running hs hc]

/-- Settles O45 (R210): nothing has happened at reset, so the empty history accounts for the empty outcomes. -/
theorem resetIsSound : Obligations.ResetIsSound :=
  ⟨⟨rfl, .nil⟩, rfl, rfl, rfl, rfl, rfl⟩

/-! ## The CRC port (spec/40_checksum.md R114) and availability (spec/60_exceptions.md R195) -/

/-- `rangeOk` read as the contract of `compute` (R48). -/
theorem rangeOk_iff (len : Nat) (start stop : Int) :
    rangeOk len start stop = true ↔ 0 ≤ start ∧ start ≤ stop ∧ stop ≤ (len : Int) := by
  simp only [rangeOk, Bool.and_eq_true, decide_eq_true_eq, and_assoc]

/-- Inside the contract an idle block answers a checksum request with the byte of `compute`. -/
theorem step_of_crc {s : State} {buffer : List Byte} {start stop : Int} {rest : List Request} (hs : s.sequencer = .idle)
    (hc : s.calls = .crc buffer start stop :: rest) (hrange : rangeOk buffer.length start stop = true) :
    step s = .next ((s.withCalls rest).replyCrc (compute buffer start.toNat stop.toNat)) := by
  rw [step_of_idle hs hc, serveRequest, serveCrc, if_pos hrange]

/-- Settles O42 (R114): the reply is the machine's `compute`, which is the pseudocode's, and the reply changes nothing else. -/
theorem crcPortRepliesTheChecksumOfTheRange : Obligations.CrcPortRepliesTheChecksumOfTheRange := by
  intro s buffer start stop rest hs hc h0 hle hlen
  exact ⟨_, (computeDoc_eq_compute _ _ _).symm, step_of_crc hs hc ((rangeOk_iff _ _ _).2 ⟨h0, hle, hlen⟩)⟩

/-- Settles O41 (R195): a selector up to 10 names an operation, and every operation answers a next state. -/
theorem everyRequestIsServedAtAllTimes : Obligations.EveryRequestIsServedAtAllTimes := by
  intro s rest hs
  constructor
  · intro sel hsel hc
    obtain ⟨i, rfl⟩ := (exists_selector_eq_iff sel).2 (Nat.lt_succ_of_le hsel)
    exact ⟨_, step_of_operation hs hc, rfl⟩
  · intro buffer start stop h0 hle hlen hc
    exact ⟨_, step_of_crc hs hc ((rangeOk_iff _ _ _).2 ⟨h0, hle, hlen⟩), rfl⟩

end Sys2Proof.Machine

namespace Sys2Proof.Machine

/-! ## The registers of an operation (spec/10_state.md R24 to R26) -/

/-- `RLEN` has four bits, which hold every length below 16. -/
theorem LocalRegs.rlen_load (r : LocalRegs) {n : Nat} (hn : n < 16) (b : List Byte) :
    (r.load n b).rlen.map BitVec.toNat = some n := by
  simp [LocalRegs.load, Nat.mod_eq_of_lt hn]

/-- Settles O7 (R24, R26, R45): a response of at most nine bytes is held whole, and an operation begins with blank registers. -/
theorem responseRegistersHoldExactlyTheResponse : Obligations.ResponseRegistersHoldExactlyTheResponse := by
  refine ⟨fun r b hb => ?_, fun s => ⟨rfl, rfl, rfl, fun j => rfl⟩⟩
  have hlen : b.length < 16 := by
    simp only [List.mem_cons, List.not_mem_nil, or_false] at hb
    omega
  have hread := r.readRB_load_whole hlen rfl
  refine ⟨r.rlen_load hlen b, hread, fun j => ?_⟩
  simp [hread]

/-- On a whole sequence the pseudocode is the byte form (R103). -/
theorem computeDoc_whole (b : List Byte) : computeDoc b 0 b.length = (crc8 b).toNat := by
  rw [computeDoc_eq_compute, compute, slice_whole]

/-- Settles O21 (R25, R100): the engine's `CRC` ends at the byte form's checksum, which is the pseudocode's. -/
theorem engineRegisterHoldsTheChecksum : Obligations.EngineRegisterHoldsTheChecksum := by
  intro r b
  refine ⟨?_, r.compute_rlen b, r.compute_rb b⟩
  rw [r.compute_crc, computeDoc_whole]
  rfl

theorem LocalRegs.validate_fst (r : LocalRegs) (triples : List Triple) :
    (r.validate triples).1 = frameValid triples r.received :=
  (r.validate_spec triples).1.trans (passes_eq_frameValid triples r.received)

/-- Settles O22 (R110, R111): the answer is a conjunction over the triples, and a conjunction has no order. -/
theorem validatorChecksEveryTripleInAnyOrder : Obligations.ValidatorChecksEveryTripleInAnyOrder := by
  refine ⟨LocalRegs.validate_fst, fun r ts us h => ?_⟩
  rw [r.validate_fst, r.validate_fst]
  exact h.all_eq

/-! ## Raw counts (spec/42_decoder.md R132, R135) -/

/-- Quotient and remainder by 100 give the raw count back (R135). -/
theorem wholePart_add_hundredthsPart (raw : Word) : wholePart raw * 100 + hundredthsPart raw = raw.toNat :=
  Nat.div_add_mod' raw.toNat 100

theorem raw_toNat_le (raw : Word) : raw.toNat ≤ 65535 := Nat.le_of_lt_succ raw.isLt

/-- A hundred times the physical value is the raw count, exactly (R132, R134). -/
theorem physical_mul_hundred (raw : Word) : physical raw * 100 = (raw.toNat : Rat) :=
  div_mul_cancel₀ _ (by norm_num [scale])

/-- Settles O9 (R132, R135): `raw` is `whole * 100 + hundredths` and at most 65535. -/
theorem rawCountSplitsIntoWholeAndHundredths : Obligations.RawCountSplitsIntoWholeAndHundredths := by
  intro raw
  have hsplit := wholePart_add_hundredthsPart raw
  have hle := raw_toNat_le raw
  have hscaled := physical_mul_hundred raw
  have hsplitRat : (wholePart raw : Rat) * 100 + (hundredthsPart raw : Rat) = (raw.toNat : Rat) := by exact_mod_cast hsplit
  have hleRat : (raw.toNat : Rat) ≤ 65535 := by exact_mod_cast hle
  have hnonneg : (0 : Rat) ≤ raw.toNat := Nat.cast_nonneg _
  have hhundredths : hundredthsPart raw < 100 := Nat.mod_lt _ (by decide)
  refine ⟨by linarith, hscaled, by linarith, by linarith, by omega, by omega⟩

end Sys2Proof.Machine

namespace Sys2Proof.Machine

/-! ## The checksum depends on its range alone (spec/40_checksum.md R102) -/

theorem getElem?_slice (b : List Byte) (s e j : Nat) : (slice b s e)[j]? = if s + j < e then b[s + j]? else none := by
  rw [slice, List.getElem?_drop, List.getElem?_take]

theorem length_slice {b : List Byte} {e : Nat} (he : e ≤ b.length) (s : Nat) : (slice b s e).length = e - s := by
  rw [slice, List.length_drop, List.length_take_of_le he]

/-- Buffers that agree on a range have the same range. -/
theorem slice_congr {b b' : List Byte} {s e : Nat} (h : ∀ j, s ≤ j → j < e → b[j]? = b'[j]?) : slice b s e = slice b' s e := by
  apply List.ext_getElem?
  intro j
  rw [getElem?_slice, getElem?_slice]
  split
  next hj => exact h _ (Nat.le_add_right s j) hj
  next => rfl

/-- Settles O11 (R102): `compute` reads the slice and nothing else. -/
theorem checksumDependsOnlyOnItsRange : Obligations.ChecksumDependsOnlyOnItsRange := by
  intro b s e _ he
  constructor
  · rw [compute, compute, ← length_slice he s, slice_whole]
  · intro b' _ h
    rw [compute, compute, slice_congr h]

/-! ## The byte form over a sequence -/

@[simp] theorem crc8From_nil (c : Byte) : crc8From c [] = c := rfl

@[simp] theorem crc8From_cons (c x : Byte) (b : List Byte) : crc8From c (x :: b) = crc8From (crc8Step c x) b := rfl

@[simp] theorem crc8From_append (c : Byte) (b b' : List Byte) : crc8From c (b ++ b') = crc8From (crc8From c b) b' :=
  List.foldl_append

/-! ## Linearity (R109 item 1) -/

/-- The byte-by-byte exclusive or of two sequences. -/
def xorBytes (b p : List Byte) : List Byte := List.zipWith (fun x y => x ^^^ y) b p

/-- The byte step is linear in its two arguments together. -/
theorem crc8Step_xor (c d x y : Byte) : crc8Step (c ^^^ d) (x ^^^ y) = crc8Step c x ^^^ crc8Step d y := by
  have hswap : (c ^^^ d) ^^^ (x ^^^ y) = (c ^^^ x) ^^^ (d ^^^ y) := by ac_rfl
  simp only [crc8Step_eq_crcTable, hswap, crcTable_xor]

theorem crc8From_xorBytes (c d : Byte) {b p : List Byte} (h : b.length = p.length) :
    crc8From (c ^^^ d) (xorBytes b p) = crc8From c b ^^^ crc8From d p := by
  induction b generalizing c d p with
  | nil => cases p with
    | nil => rfl
    | cons y p => cases h
  | cons x b ih => cases p with
    | nil => cases h
    | cons y p =>
      simp only [xorBytes, List.zipWith_cons_cons, crc8From_cons, crc8Step_xor]
      exact ih _ _ (Nat.succ.inj h)

/-- Settles O14 (R109 item 1), by induction on the two sequences. -/
theorem checksumIsAffine : Obligations.ChecksumIsAffine := fun c d _ _ h => crc8From_xorBytes c d h

/-- A term added to the register at the start is shifted once per bit of the sequence. -/
theorem crc8From_xor_register (c d : Byte) (b : List Byte) :
    crc8From (c ^^^ d) b = crc8From c b ^^^ Nat.iterate crcShift (8 * b.length) d := by
  induction b generalizing c d with
  | nil => rfl
  | cons x b ih =>
    have hstep : crc8Step (c ^^^ d) x = crc8Step c x ^^^ crcTable d := by
      simpa [crc8Step_eq_crcTable] using crc8Step_xor c d x 0
    rw [crc8From_cons, hstep, ih]
    simp [crcTable, crc8Step, Nat.mul_add]

/-! ## Bijectivity (R109 item 2) -/

/-- The taps include bit 0, so the bit shifted out stays readable there, and only zero is shifted to zero. -/
theorem eq_zero_of_crcShift_eq_zero {x : Byte} (h : crcShift x = 0#8) : x = 0#8 := by
  rw [crcShift_eq, BitVec.xor_eq_zero_iff] at h
  have htop : x.getLsbD 7 = false := by simpa [crcPoly] using (congrArg (BitVec.getLsbD · 0) h).symm
  rw [htop] at h
  have hlow : ∀ j < 7, x.getLsbD j = false := by
    intro j hj
    have hj8 : j < 8 ∧ j + 1 < 8 := by omega
    simpa [bitTimes, hj8] using congrArg (BitVec.getLsbD · (j + 1)) h
  apply BitVec.eq_of_getLsbD_eq
  intro j hj
  rw [BitVec.getLsbD_zero]
  obtain rfl | hj7 : j = 7 ∨ j < 7 := by omega
  · exact htop
  · exact hlow j hj7

theorem crcShift_injective : Function.Injective crcShift := by
  intro x y h
  apply BitVec.xor_eq_zero_iff.1
  apply eq_zero_of_crcShift_eq_zero
  rw [crcShift_xor, h, BitVec.xor_self]

theorem crcShift_iterate_eq_zero_iff (n : Nat) (x : Byte) : Nat.iterate crcShift n x = 0#8 ↔ x = 0#8 := by
  have hzero : Nat.iterate crcShift n 0#8 = 0#8 := Function.iterate_fixed (by decide) n
  conv_lhs => rw [← hzero]
  exact (crcShift_injective.iterate n).eq_iff

theorem crc8Step_injective_register (b : Byte) : Function.Injective fun c => crc8Step c b := fun _ _ h =>
  (BitVec.xor_left_inj b).1 (crcShift_injective.iterate 8 h)

theorem crc8Step_injective_byte (c : Byte) : Function.Injective fun b => crc8Step c b := fun _ _ h =>
  (BitVec.xor_right_inj c).1 (crcShift_injective.iterate 8 h)

theorem crc8From_injective (b : List Byte) : Function.Injective fun c => crc8From c b := by
  induction b with
  | nil => exact Function.injective_id
  | cons x b ih => exact ih.comp (crc8Step_injective_register x)

/-- Settles O15 (R109 item 2): the shift is injective, so every step is, in the register and in the byte; on 256 values that is a
bijection. -/
theorem changingOneByteChangesTheChecksum : Obligations.ChangingOneByteChangesTheChecksum := by
  refine ⟨fun b => Finite.injective_iff_bijective.1 (crc8Step_injective_register b),
    fun c => Finite.injective_iff_bijective.1 (crc8Step_injective_byte c), fun c before rest x y hxy h => hxy ?_⟩
  rw [crc8From_append, crc8From_append] at h
  exact crc8Step_injective_byte _ (crc8From_injective rest h)

/-! ## The residue (R109 item 3) -/

/-- The last byte step leaves zero exactly when its byte equals the register. -/
theorem crc8_concat_eq_zero_iff (b : List Byte) (k : Byte) : crc8 (b ++ [k]) = 0#8 ↔ k = crc8 b := by
  rw [crc8, crc8From_append, crc8From_cons, crc8From_nil, crc8Step, crcShift_iterate_eq_zero_iff, BitVec.xor_eq_zero_iff, eq_comm]
  rfl

/-- Settles O16 (R109 item 3): the trailing byte is one more byte step. -/
theorem residueIsZeroExactlyForAValidRange : Obligations.ResidueIsZeroExactlyForAValidRange := by
  intro b k
  have hlen : b.length + 1 = (b ++ [k]).length := by rw [List.length_append, List.length_singleton]
  rw [hlen, computeDoc_whole, computeDoc_whole, BitVec.toNat_inj, ← crc8_concat_eq_zero_iff]
  exact BitVec.toNat_inj (y := 0#8)

/-- A range followed by its checksum byte is valid exactly when its residue is zero. -/
theorem frameValid_eq_true_iff {n : Nat} {b : List Byte} (hb : b.length = n + 1) :
    frameValid [⟨0, n, n⟩] b = true ↔ crc8 b = 0#8 := by
  obtain rfl | ⟨a, k, rfl⟩ := List.eq_nil_or_concat' b
  · cases hb
  · obtain rfl : a.length = n := by simpa using hb
    have hrange : slice (a ++ [k]) 0 a.length = a := by simp [slice]
    rw [crc8_concat_eq_zero_iff, frameValid_singleton_iff (x := k) (by simp), computeDoc_eq_compute, compute, hrange,
      BitVec.toNat_inj, eq_comm]

/-- On a valid range an error pattern goes undetected exactly when its own checksum, from a zero register, is zero. -/
theorem frameValid_xorBytes_iff {n : Nat} {b p : List Byte} (hb : b.length = n + 1) (hp : p.length = n + 1)
    (hvalid : frameValid [⟨0, n, n⟩] b = true) :
    frameValid [⟨0, n, n⟩] (xorBytes b p) = true ↔ crc8From 0#8 p = 0#8 := by
  have hlen : (xorBytes b p).length = n + 1 := by simp [xorBytes, hb, hp]
  have hsum := crc8From_xorBytes crcInit 0#8 (hb.trans hp.symm)
  rw [frameValid_eq_true_iff hb, crc8] at hvalid
  rw [BitVec.xor_zero, hvalid, BitVec.zero_xor] at hsum
  rw [frameValid_eq_true_iff hlen, crc8, hsum]

theorem frameValid_xorBytes_eq_false {n : Nat} {b p : List Byte} (hb : b.length = n + 1) (hp : p.length = n + 1)
    (hvalid : frameValid [⟨0, n, n⟩] b = true) (h : crc8From 0#8 p ≠ 0#8) : frameValid [⟨0, n, n⟩] (xorBytes b p) = false :=
  Bool.eq_false_of_not_eq_true (mt (frameValid_xorBytes_iff hb hp hvalid).1 h)

end Sys2Proof.Machine

namespace Sys2Proof.Machine

/-! ## Odd error patterns (spec/40_checksum.md R109 item 4): the generator is a multiple of `x + 1`, so the checksum keeps parity -/

/-- The parity of a byte: whether an odd number of its bits is set. -/
def parity (x : Byte) : Bool := ((List.range 8).countP fun j => x.getLsbD j).bodd

theorem bodd_ite (d : Bool) : (if d = true then 1 else 0 : Nat).bodd = d := by cases d <;> rfl

theorem bodd_countP_xor (p q : Nat → Bool) (l : List Nat) :
    (l.countP fun j => p j ^^ q j).bodd = ((l.countP p).bodd ^^ (l.countP q).bodd) := by
  induction l with
  | nil => simp
  | cons j l ih =>
    simp only [List.countP_cons, Nat.bodd_add, bodd_ite, ih]
    simp only [Bool.xor_assoc, Bool.xor_left_comm]

theorem parity_xor (x y : Byte) : parity (x ^^^ y) = (parity x ^^ parity y) := by
  simp only [parity, BitVec.getLsbD_xor, bodd_countP_xor]

theorem parity_eq_xor_bits (x : Byte) :
    parity x = (x.getLsbD 7 ^^ x.getLsbD 6 ^^ x.getLsbD 5 ^^ x.getLsbD 4 ^^ x.getLsbD 3 ^^ x.getLsbD 2 ^^ x.getLsbD 1 ^^
      x.getLsbD 0) := by
  have hrange : List.range 8 = [0, 1, 2, 3, 4, 5, 6, 7] := rfl
  simp only [parity, hrange, List.countP_cons, List.countP_nil, Nat.bodd_add, bodd_ite, Nat.bodd_zero, Bool.false_xor]

/-- The taps are three and the bit shifted out is one, so a shift keeps the parity. -/
theorem parity_crcShift (x : Byte) : parity (crcShift x) = parity x := by
  have htaps : parity (bitTimes (x.getLsbD 7) crcPoly) = x.getLsbD 7 := by cases x.getLsbD 7 <;> decide
  have hshift : (x.getLsbD 7 ^^ parity (x <<< 1)) = parity x := by
    simp [parity_eq_xor_bits]
  rw [crcShift_eq, parity_xor, htaps, Bool.xor_comm, hshift]

theorem parity_crcShift_iterate (n : Nat) (x : Byte) : parity (Nat.iterate crcShift n x) = parity x := by
  induction n generalizing x with
  | zero => rfl
  | succ n ih => rw [Function.iterate_succ_apply, ih, parity_crcShift]

/-- The weight's parity, byte by byte. -/
theorem bodd_weight_cons (x : Byte) (b : List Byte) : (weight (x :: b)).bodd = (parity x ^^ (weight b).bodd) := by
  rw [weight, List.map_cons, List.sum_cons, Nat.bodd_add]
  rfl

/-- The parity of a checksum is that of the register at the start and of all bits of the sequence. -/
theorem parity_crc8From (c : Byte) (b : List Byte) : parity (crc8From c b) = (parity c ^^ (weight b).bodd) := by
  induction b generalizing c with
  | nil => simp [weight]
  | cons x b ih => rw [crc8From_cons, ih, crc8Step, parity_crcShift_iterate, parity_xor, bodd_weight_cons, Bool.xor_assoc]

theorem ne_zero_of_parity {x : Byte} (h : parity x = true) : x ≠ 0#8 := by
  rintro rfl
  exact absurd h (by decide)

/-- Settles O18 (R109 item 4): the checksum of an odd pattern is odd, so it is not zero. -/
theorem oddErrorPatternsAreDetected : Obligations.OddErrorPatternsAreDetected := by
  intro d0 d1 k p0 p1 p2 hvalid hodd
  have hbodd : (weight [p0, p1, p2]).bodd = true := by
    rw [Nat.mod_two_of_bodd] at hodd
    exact Bool.toNat_eq_one.1 hodd
  have hne : crc8From 0#8 [p0, p1, p2] ≠ 0#8 := ne_zero_of_parity (by rw [parity_crc8From, hbodd]; rfl)
  exact frameValid_xorBytes_eq_false rfl rfl hvalid hne

/-! ## Bursts (R109 item 4): a burst's checksum is its eight bits' checksum, shifted to its place -/

/-- The three bytes of 24 bits, the most significant first (R42). -/
def bytesOf24 (e : BitVec 24) : List Byte := [e.extractLsb' 16 8, e.extractLsb' 8 8, e.extractLsb' 0 8]

/-- The 24 bits enter the register one by one, the most significant first (R105). -/
theorem crc8From_bytesOf24 (c : Byte) (e : BitVec 24) :
    crc8From c (bytesOf24 e) =
      ([23, 22, 21, 20, 19, 18, 17, 16, 15, 14, 13, 12, 11, 10, 9, 8, 7, 6, 5, 4, 3, 2, 1, 0].map fun j =>
        e.getLsbD j).foldl crc8Bit c := by
  obtain ⟨hbits, -⟩ := byteStepIsEightBitSteps
  simp [bytesOf24, hbits]

theorem crc8Bit_false (c : Byte) : crc8Bit c false = crcShift c := by
  simp [crc8Bit, crcShift]

/-- While its top bit is clear, shifting a pattern shifts its checksum. -/
theorem crc8From_bytesOf24_shiftLeft {e : BitVec 24} (h : e.getLsbD 23 = false) :
    crc8From 0#8 (bytesOf24 (e <<< 1)) = crcShift (crc8From 0#8 (bytesOf24 e)) := by
  have hzero : crc8Bit 0#8 false = 0#8 := by decide
  rw [crc8From_bytesOf24, crc8From_bytesOf24]
  simp only [List.map_cons, List.map_nil, List.foldl_cons, List.foldl_nil, h, hzero, ← crc8Bit_false]
  simp

theorem bytesOf24_setWidth (q : Byte) : bytesOf24 (q.setWidth 24) = [0#8, 0#8, q] := by
  simp only [bytesOf24, List.cons.injEq, and_true]
  refine ⟨?_, ?_, ?_⟩ <;>
  · apply BitVec.eq_of_getLsbD_eq
    intro j hj
    have hj24 : j < 24 ∧ 8 ≤ 16 + j := by omega
    simp [hj, hj24]

/-- At every place up to the top of the 24 bits, by induction on the place. -/
theorem crc8From_burst (q : Byte) {sh : Nat} (hsh : sh ≤ 16) :
    crc8From 0#8 (bytesOf24 (q.setWidth 24 <<< sh)) = Nat.iterate crcShift sh (crcTable q) := by
  induction sh with
  | zero =>
    rw [BitVec.shiftLeft_zero, bytesOf24_setWidth]
    simp [crc8Step_eq_crcTable]
  | succ sh ih =>
    have hmsb : 8 ≤ 23 - sh := by omega
    have htop : (q.setWidth 24 <<< sh).getLsbD 23 = false := by simp [hmsb]
    rw [BitVec.shiftLeft_add, crc8From_bytesOf24_shiftLeft htop, ih (by omega), Function.iterate_succ_apply']

/-- Settles O19 (R109 item 4): a non-zero burst's checksum is shifted from a non-zero table entry; the generator's is zero. -/
theorem shortBurstsAreDetectedAndTheGeneratorIsNot : Obligations.ShortBurstsAreDetectedAndTheGeneratorIsNot := by
  constructor
  · intro d0 d1 k q sh hvalid hq hsh
    have hne : crc8From 0#8 (bytesOf24 (q.setWidth 24 <<< sh)) ≠ 0#8 := by
      rw [crc8From_burst q hsh, Ne, crcShift_iterate_eq_zero_iff, crcTable, crc8Step, crcShift_iterate_eq_zero_iff]
      simpa using hq
    exact frameValid_xorBytes_eq_false rfl rfl hvalid hne
  · intro d0 d1 k hvalid
    have hzero : crc8From 0#8 [0x00, 0x01, 0x31] = 0#8 := by
      have hone : crcTable 0x01#8 = 0x31#8 := by decide
      simp [crc8Step_eq_crcTable, hone]
    simpa [xorBytes] using (frameValid_xorBytes_iff rfl rfl hvalid).2 hzero

/-! ## Flipped bits (R109 items 4 and 5) -/

/-- The checksum, from a zero register, of a frame of `n` bytes in which only bit `i` is set, counted from the first (R42): the
bit enters at the low end of the register and is shifted until the frame's end, eight times more for the byte step. -/
def bitSyndrome (n i : Nat) : Byte := Nat.iterate crcShift (8 + (8 * n - 1 - i)) 1#8

/-- The bit of a byte that `flipBit` flips stands where a one has been shifted to. -/
theorem flippedBit_eq_iterate : ∀ i < 8, (0x80 : Byte) >>> i = Nat.iterate crcShift (7 - i) 1#8 := by decide

/-- A bit lies in the first byte or is some bit of the bytes after it. -/
theorem lt_eight_or_exists_add (i : Nat) : i < 8 ∨ ∃ j, i = j + 8 :=
  (Nat.lt_or_ge i 8).imp_right fun h => ⟨i - 8, (Nat.sub_add_cancel h).symm⟩

theorem flipBit_cons_of_lt (x : Byte) (b : List Byte) {i : Nat} (hi : i < 8) :
    flipBit (x :: b) i = (x ^^^ ((0x80 : Byte) >>> i)) :: b := by
  rw [flipBit, Nat.div_eq_of_lt hi, Nat.mod_eq_of_lt hi, List.modify_zero_cons]

theorem flipBit_cons_add (x : Byte) (b : List Byte) (i : Nat) : flipBit (x :: b) (i + 8) = x :: flipBit b i := by
  rw [flipBit, Nat.add_div_right i (by decide), Nat.add_mod_right, List.modify_succ_cons, flipBit]

@[simp] theorem length_flipBit (b : List Byte) (i : Nat) : (flipBit b i).length = b.length := List.length_modify ..

/-- Flipping a bit adds its syndrome to the checksum. -/
theorem crc8From_flipBit (c : Byte) (b : List Byte) {i : Nat} (hi : i < 8 * b.length) :
    crc8From c (flipBit b i) = crc8From c b ^^^ bitSyndrome b.length i := by
  induction b generalizing c i with
  | nil => simp at hi
  | cons x b ih =>
    rw [List.length_cons] at hi
    obtain hlt | ⟨j, rfl⟩ := lt_eight_or_exists_add i
    · have hstep : crc8Step c (x ^^^ ((0x80 : Byte) >>> i)) = crc8Step c x ^^^ crcTable ((0x80 : Byte) >>> i) := by
        simpa [crc8Step_eq_crcTable] using crc8Step_xor c 0#8 x ((0x80 : Byte) >>> i)
      have hexp : 8 + (8 * (b.length + 1) - 1 - i) = 8 * b.length + (8 + (7 - i)) := by omega
      rw [flipBit_cons_of_lt x b hlt, crc8From_cons, hstep, crc8From_xor_register, flippedBit_eq_iterate i hlt,
        crc8From_cons, List.length_cons, bitSyndrome, hexp]
      simp [crcTable, crc8Step, Function.iterate_add_apply]
    · have hexp : 8 * (b.length + 1) - 1 - (j + 8) = 8 * b.length - 1 - j := by omega
      rw [flipBit_cons_add, crc8From_cons, ih _ (by omega), crc8From_cons, List.length_cons, bitSyndrome, bitSyndrome, hexp]

/-- The syndrome of several flipped bits: the exclusive or of theirs. -/
def flipSyndrome (n : Nat) : List Nat → Byte
  | [] => 0#8
  | i :: is => bitSyndrome n i ^^^ flipSyndrome n is

theorem length_foldl_flipBit (b : List Byte) (flips : List Nat) : (flips.foldl flipBit b).length = b.length := by
  induction flips generalizing b with
  | nil => rfl
  | cons i flips ih => rw [List.foldl_cons, ih, length_flipBit]

/-- Flipping several bits adds each one's syndrome. -/
theorem crc8From_foldl_flipBit (c : Byte) {b : List Byte} {flips : List Nat} (h : ∀ j ∈ flips, j < 8 * b.length) :
    crc8From c (flips.foldl flipBit b) = crc8From c b ^^^ flipSyndrome b.length flips := by
  induction flips generalizing b with
  | nil => simp [flipSyndrome]
  | cons i flips ih =>
    obtain ⟨hi, hflips⟩ := List.forall_mem_cons.1 h
    rw [List.foldl_cons, ih (by simpa using hflips), crc8From_flipBit c b hi, length_flipBit, flipSyndrome, BitVec.xor_assoc]

/-- A valid frame with flipped bits is valid exactly when their syndrome is zero. -/
theorem frameValid_foldl_flipBit_iff {n : Nat} {b : List Byte} {flips : List Nat} (hb : b.length = n + 1)
    (hvalid : frameValid [⟨0, n, n⟩] b = true) (hflips : ∀ j ∈ flips, j < 8 * (n + 1)) :
    frameValid [⟨0, n, n⟩] (flips.foldl flipBit b) = true ↔ flipSyndrome (n + 1) flips = 0#8 := by
  rw [← hb] at hflips
  have hsum := crc8From_foldl_flipBit crcInit hflips
  rw [frameValid_eq_true_iff hb, crc8] at hvalid
  rw [hvalid, BitVec.zero_xor, hb] at hsum
  rw [frameValid_eq_true_iff ((length_foldl_flipBit b flips).trans hb), crc8, hsum]

/-- Each flipped bit changes the parity of the syndrome. -/
theorem parity_flipSyndrome (n : Nat) (flips : List Nat) : parity (flipSyndrome n flips) = flips.length.bodd := by
  induction flips with
  | nil => rw [flipSyndrome]; decide
  | cons i flips ih =>
    have hone : parity 1#8 = true := by decide
    rw [flipSyndrome, parity_xor, ih, bitSyndrome, parity_crcShift_iterate, hone, List.length_cons, Nat.bodd_succ, Bool.true_xor]

theorem flipSyndrome_ne_zero_of_odd {n : Nat} {flips : List Nat} (h : flips.length.bodd = true) : flipSyndrome n flips ≠ 0#8 :=
  ne_zero_of_parity ((parity_flipSyndrome n flips).trans h)

/-- R109 item 5: `x` has order 127 modulo the generator. 127 is prime, so it is enough that 127 shifts give 1 back and one does
not. -/
theorem minimalPeriod_crcShift_one : Function.minimalPeriod crcShift 1#8 = 127 := by
  have : Fact (Nat.Prime 127) := ⟨by norm_num⟩
  have hperiod : Nat.iterate crcShift 127 1#8 = 1#8 := by decide +kernel
  exact Function.minimalPeriod_eq_prime hperiod (by unfold Function.IsFixedPt; decide)

/-- In a frame of at most 127 bits, different bits have different syndromes. -/
theorem bitSyndrome_injOn {n i j : Nat} (hn : 8 * n ≤ 127) (hi : i < 8 * n) (hj : j < 8 * n)
    (h : bitSyndrome n i = bitSyndrome n j) : i = j := by
  simp only [bitSyndrome, Function.iterate_add_apply] at h
  have hpower := crcShift_injective.iterate 8 h
  rw [Function.iterate_eq_iterate_iff_of_lt_minimalPeriod (by rw [minimalPeriod_crcShift_one]; omega)
    (by rw [minimalPeriod_crcShift_one]; omega)] at hpower
  omega

/-- In a frame of at most 127 bits no one, two or three different bits have the syndrome zero: an odd number by parity, two since
their syndromes differ. -/
theorem flipSyndrome_ne_zero {n : Nat} {flips : List Nat} (hn : 8 * n ≤ 127) (hnodup : flips.Nodup)
    (hflips : ∀ j ∈ flips, j < 8 * n) (hpos : 1 ≤ flips.length) (hle : flips.length ≤ 3) : flipSyndrome n flips ≠ 0#8 := by
  match flips with
  | [_] => exact flipSyndrome_ne_zero_of_odd (by simp)
  | [i, j] =>
    intro h
    have hij : bitSyndrome n i = bitSyndrome n j := by simpa [flipSyndrome, BitVec.xor_eq_zero_iff] using h
    have := bitSyndrome_injOn hn (hflips i (by simp)) (hflips j (by simp)) hij
    simp [this] at hnodup
  | [_, _, _] => exact flipSyndrome_ne_zero_of_odd (by simp)

/-- Flipping one, two or three bits of a valid frame of at most 127 bits makes it invalid. -/
theorem frameValid_foldl_flipBit_eq_false {n : Nat} {b : List Byte} {flips : List Nat} (hn : 8 * (n + 1) ≤ 127)
    (hb : b.length = n + 1) (hvalid : frameValid [⟨0, n, n⟩] b = true) (hnodup : flips.Nodup)
    (hflips : ∀ j ∈ flips, j < 8 * (n + 1)) (hpos : 1 ≤ flips.length) (hle : flips.length ≤ 3) :
    frameValid [⟨0, n, n⟩] (flips.foldl flipBit b) = false := by
  have hne := flipSyndrome_ne_zero hn hnodup hflips hpos hle
  exact Bool.eq_false_of_not_eq_true (mt (frameValid_foldl_flipBit_iff hb hvalid hflips).1 hne)

/-- Settles O17 (R109 items 4 and 5): the two frames have 24 and 72 bits. -/
theorem upToThreeFlippedBitsAreDetected : Obligations.UpToThreeFlippedBitsAreDetected := by
  intro n hn b hb hvalid flips hnodup hflips hpos hle
  have hbits : 8 * (n + 1) ≤ 127 := by
    simp only [List.mem_cons, List.not_mem_nil, or_false] at hn
    omega
  exact frameValid_foldl_flipBit_eq_false hbits hb hvalid hnodup hflips hpos hle

/-! ## Patterns of four bits (R109 item 4) -/

/-- How many choices of `k` positions of a list have the exclusive or `t`: by whether the first is chosen. -/
def countXor : Nat → List Byte → Byte → Nat
  | 0, _, t => if 0#8 = t then 1 else 0
  | _ + 1, [], _ => 0
  | k + 1, u :: us, t => countXor (k + 1) us t + countXor k us (t ^^^ u)

theorem xor_eq_iff_eq_xor (u x t : Byte) : u ^^^ x = t ↔ x = t ^^^ u := by
  rw [← BitVec.xor_right_inj u, ← BitVec.xor_assoc, BitVec.xor_self, BitVec.zero_xor, BitVec.xor_comm]

/-- The sublists of length `k` with syndrome `t` are counted as `countXor` counts, by the same recursion. -/
theorem countP_flipSyndrome_eq_countXor (n : Nat) : ∀ (k : Nat) (l : List Nat) (t : Byte),
    ((l.sublistsLen k).countP fun flips => flipSyndrome n flips = t) = countXor k (l.map (bitSyndrome n)) t
  | 0, l, t => by
    rw [List.sublistsLen_zero, List.countP_singleton, countXor]
    exact if_congr decide_eq_true_iff rfl rfl
  | k + 1, [], t => by simp [countXor]
  | k + 1, i :: l, t => by
    have hchosen : ((l.sublistsLen k).countP fun flips => flipSyndrome n (i :: flips) = t) =
        countXor k (l.map (bitSyndrome n)) (t ^^^ bitSyndrome n i) := by
      simp only [flipSyndrome, xor_eq_iff_eq_xor, countP_flipSyndrome_eq_countXor n k l]
    rw [List.sublistsLen_succ_cons, List.countP_append, countP_flipSyndrome_eq_countXor n (k + 1) l, List.countP_map,
      List.map_cons, countXor, ← hchosen]
    rfl

/-- Of the 10626 choices of four of the 24 syndromes, 80 cancel. -/
theorem countXor_four_bits : countXor 4 ((List.range 24).map (bitSyndrome 3)) 0#8 = 80 := by decide +kernel

/-- Settles O20 (R109 item 4): which patterns escape is a matter of their syndromes, whatever the data, and those are counted. -/
theorem exactlyEightyFourBitPatternsEscape : Obligations.ExactlyEightyFourBitPatternsEscape := by
  intro d0 d1 k hvalid
  rw [← countXor_four_bits, ← countP_flipSyndrome_eq_countXor]
  apply List.countP_congr
  intro flips hflips
  obtain ⟨hsub, -⟩ := List.mem_sublistsLen.1 hflips
  rw [frameValid_foldl_flipBit_iff rfl hvalid fun j hj => List.mem_range.1 (hsub.subset hj), decide_eq_true_iff]

end Sys2Proof.Machine

namespace Sys2Proof.Machine

/-! ## Corrupted measurements (spec/40_checksum.md R113): flips inside one of two joined groups leave the other alone -/

theorem flipBit_append_left {a : List Byte} {i : Nat} (hi : i < 8 * a.length) (b : List Byte) :
    flipBit (a ++ b) i = flipBit a i ++ b := by
  induction a generalizing i with
  | nil => cases hi
  | cons x a ih =>
    rw [List.length_cons] at hi
    obtain hlt | ⟨j, rfl⟩ := lt_eight_or_exists_add i
    · rw [List.cons_append, flipBit_cons_of_lt _ _ hlt, flipBit_cons_of_lt _ _ hlt, List.cons_append]
    · rw [List.cons_append, flipBit_cons_add, ih (by omega), flipBit_cons_add, List.cons_append]

theorem flipBit_append_right (a b : List Byte) (i : Nat) : flipBit (a ++ b) (i + 8 * a.length) = a ++ flipBit b i := by
  induction a with
  | nil => rfl
  | cons x a ih =>
    have hi : i + 8 * (a.length + 1) = i + 8 * a.length + 8 := by omega
    rw [List.length_cons, hi, List.cons_append, flipBit_cons_add, ih, List.cons_append]

theorem foldl_flipBit_append_left {a b : List Byte} {flips : List Nat} (h : ∀ j ∈ flips, j < 8 * a.length) :
    flips.foldl flipBit (a ++ b) = flips.foldl flipBit a ++ b := by
  induction flips generalizing a with
  | nil => rfl
  | cons i flips ih =>
    obtain ⟨hi, hflips⟩ := List.forall_mem_cons.1 h
    rw [List.foldl_cons, flipBit_append_left hi b, ih (by simpa using hflips), List.foldl_cons]

theorem foldl_flipBit_append_right {a b : List Byte} {flips : List Nat} (h : ∀ j ∈ flips, 8 * a.length ≤ j) :
    flips.foldl flipBit (a ++ b) = a ++ (flips.map (· - 8 * a.length)).foldl flipBit b := by
  induction flips generalizing b with
  | nil => rfl
  | cons i flips ih =>
    obtain ⟨hi, hflips⟩ := List.forall_mem_cons.1 h
    have hflip := flipBit_append_right a b (i - 8 * a.length)
    rw [Nat.sub_add_cancel hi] at hflip
    rw [List.foldl_cons, hflip, ih hflips, List.map_cons, List.foldl_cons]

/-- The two ranges of a measurement frame are two groups of their own, each two bytes and their checksum (R76). -/
theorem frameValid_measTriples_append {a b : List Byte} (ha : a.length = 3) (hb : b.length = 3) :
    frameValid measTriples (a ++ b) = (frameValid [⟨0, 2, 2⟩] a && frameValid [⟨0, 2, 2⟩] b) := by
  match a, b, ha, hb with
  | [b0, b1, b2], [b3, b4, b5], _, _ => 
    rw [Bool.eq_iff_iff, Bool.and_eq_true, List.cons_append, List.cons_append, List.cons_append, List.nil_append,
      frameValid_measTriples_iff, frameValid_singleton_iff (x := b2) rfl, frameValid_singleton_iff (x := b5) rfl]
    rfl

/-- Flipping one to three bits inside one group of a valid measurement frame makes the frame invalid. -/
theorem frameValid_measTriples_foldl_flipBit {b : List Byte} {flips : List Nat} (hb : b.length = 6)
    (hvalid : frameValid measTriples b = true) (hnodup : flips.Nodup) (hpos : 1 ≤ flips.length) (hle : flips.length ≤ 3)
    (hgroup : (∀ j ∈ flips, j < 24) ∨ (∀ j ∈ flips, 24 ≤ j ∧ j < 48)) :
    frameValid measTriples (flips.foldl flipBit b) = false := by
  obtain ⟨x, y, rfl, hx, hy⟩ : ∃ x y, b = x ++ y ∧ x.length = 3 ∧ y.length = 3 :=
    ⟨b.take 3, b.drop 3, (List.take_append_drop 3 b).symm, by simp [hb], by simp [hb]⟩
  rw [frameValid_measTriples_append hx hy, Bool.and_eq_true] at hvalid
  obtain ⟨hvx, hvy⟩ := hvalid
  obtain hleft | hright := hgroup
  · have hinvalid := frameValid_foldl_flipBit_eq_false (n := 2) (by decide) hx hvx hnodup hleft hpos hle
    rw [foldl_flipBit_append_left (by rwa [hx]), frameValid_measTriples_append ((length_foldl_flipBit x flips).trans hx) hy,
      hinvalid, Bool.false_and]
  · have hshifted : (flips.map (· - 24)).Nodup :=
      hnodup.map_on fun j hj k hk h => by
        have := hright j hj
        have := hright k hk
        omega
    have hbound : ∀ j ∈ flips.map (· - 24), j < 24 := by
      rintro _ hj
      obtain ⟨k, hk, rfl⟩ := List.mem_map.1 hj
      have := hright k hk
      omega
    have hinvalid := frameValid_foldl_flipBit_eq_false (n := 2) (by decide) hy hvy hshifted hbound (by simpa) (by simpa)
    rw [foldl_flipBit_append_right (by rw [hx]; exact fun j hj => (hright j hj).1), hx, 
      frameValid_measTriples_append hx ((length_foldl_flipBit y _).trans hy), hinvalid, Bool.and_false]

/-- Settles O35 (R113): the corrupted frame is received as it is, fails validation, and is owed the checksum record. -/
theorem corruptedMeasurementsFailWithChecksumError : Obligations.CorruptedMeasurementsFailWithChecksumError := by
  intro i hi s v w flips hvalid hnodup hpos hle hgroup hw ha
  have hinvalid := frameValid_measTriples_foldl_flipBit rfl hvalid hnodup hpos hle hgroup
  rw [← hw] at hinvalid
  have hrow : (opRow i).triples = measTriples ∧ (opRow i).rdLen = 6 := by
    simp only [List.mem_cons, List.not_mem_nil, or_false] at hi
    obtain rfl | rfl | rfl := hi <;> exact ⟨rfl, rfl⟩
  obtain ⟨htriples, hlen⟩ := hrow
  have howed : recordOwed i (w.toList.take (opRow i).rdLen) = checksumRecord := by
    rw [recordOwed, htriples, hlen, hinvalid]
    rfl
  exact ⟨_, howed ▸ exec_of_success ha i⟩

end Sys2Proof.Machine
